-- ==== Sys2Proof/Word.lean ====
section
/-! DEFINITION. The value types of the engine: bytes, 16-bit words, register numbers (R21, R23, R24, R5, R6). -/

namespace Sys2Proof

/-- An 8-bit unsigned value: a general register, a timer, a byte of memory (R21, R26, R50). -/
abbrev Byte := BitVec 8

/-- A 16-bit unsigned value: the index register, the program counter, a stack entry, an instruction word (R23, R24,
R25, R80). -/
abbrev Word := BitVec 16

/-- The number of a general register, 0 to 15 (R21). -/
abbrev Reg := Fin 16

/-- Register F, which doubles as the flag output (R22). -/
abbrev regVF : Reg := 15

/-- A 4-bit key number, 0 to 15 (R173, R225). -/
abbrev Key := Fin 16

end Sys2Proof
end

