-- ==== Sys2Proof/Syntax.lean ====
section
/-! DEFINITION. The 34 instructions of the opcode map (R86), one constructor per row of spec/opcode_table.json, in the
table's order. Register fields are register numbers, `nn` is a byte, `nnn` is the 16-bit address it is used as (R84),
`n` is a byte count (R84). -/

namespace Sys2Proof

/-- An instruction. What the fields of an encodable one satisfy is `Instr.wf` (WellFormed.lean). -/
inductive Instr where
  /-- `00E0`, clear the display (R160). -/
  | cls
  /-- `00EE`, return from subroutine (R100). -/
  | ret
  /-- `1nnn`, jump (R101). -/
  | jp (nnn : Word)
  /-- `2nnn`, call subroutine (R102). -/
  | call (nnn : Word)
  /-- `3xnn`, skip if register equals immediate (R110). -/
  | seVxNn (x : Reg) (nn : Byte)
  /-- `4xnn`, skip if register differs from immediate (R111). -/
  | sneVxNn (x : Reg) (nn : Byte)
  /-- `5xy0`, skip if registers equal (R112). -/
  | seVxVy (x y : Reg)
  /-- `6xnn`, load immediate (R120). -/
  | ldVxNn (x : Reg) (nn : Byte)
  /-- `7xnn`, add immediate without flag (R121). -/
  | addVxNn (x : Reg) (nn : Byte)
  /-- `8xy0`, copy (R130). -/
  | ldVxVy (x y : Reg)
  /-- `8xy1`, bitwise OR (R131). -/
  | orVxVy (x y : Reg)
  /-- `8xy2`, bitwise AND (R132). -/
  | andVxVy (x y : Reg)
  /-- `8xy3`, bitwise exclusive OR (R133). -/
  | xorVxVy (x y : Reg)
  /-- `8xy4`, add with carry out (R134). -/
  | addVxVy (x y : Reg)
  /-- `8xy5`, subtract Vy from Vx (R135). -/
  | subVxVy (x y : Reg)
  /-- `8xy6`, shift right by one; `y` takes part in the match only (R136, R89). -/
  | shrVx (x y : Reg)
  /-- `8xy7`, subtract Vx from Vy (R137). -/
  | subnVxVy (x y : Reg)
  /-- `8xyE`, shift left by one; `y` takes part in the match only (R138, R89). -/
  | shlVx (x y : Reg)
  /-- `9xy0`, skip if registers differ (R113). -/
  | sneVxVy (x y : Reg)
  /-- `Annn`, load index register (R150). -/
  | ldINnn (nnn : Word)
  /-- `Bnnn`, jump with offset V0 (R103). -/
  | jpV0Nnn (nnn : Word)
  /-- `Cxnn`, masked random byte (R122). -/
  | rndVxNn (x : Reg) (nn : Byte)
  /-- `Dxyn`, draw a sprite of `n` bytes (R161). -/
  | drwVxVyN (x y : Reg) (n : Nat)
  /-- `Ex9E`, skip if key down (R170). -/
  | skpVx (x : Reg)
  /-- `ExA1`, skip if key not down (R171). -/
  | sknpVx (x : Reg)
  /-- `Fx07`, read the delay timer (R180). -/
  | ldVxDt (x : Reg)
  /-- `Fx0A`, wait for a key (R172). -/
  | ldVxK (x : Reg)
  /-- `Fx15`, set the delay timer (R181). -/
  | ldDtVx (x : Reg)
  /-- `Fx18`, set the sound timer (R182). -/
  | ldStVx (x : Reg)
  /-- `Fx1E`, add register to index register (R151). -/
  | addIVx (x : Reg)
  /-- `Fx29`, address of a font glyph (R152). -/
  | ldFVx (x : Reg)
  /-- `Fx33`, store binary-coded decimal (R153). -/
  | ldBVx (x : Reg)
  /-- `Fx55`, store registers V0 to Vx (R154). -/
  | ldMemVx (x : Reg)
  /-- `Fx65`, load registers V0 to Vx (R155). -/
  | ldVxMem (x : Reg)
  deriving DecidableEq, Repr

end Sys2Proof
end

