-- ==== Sys2Proof/WellFormed.lean ====
section
/-! DEFINITION. Which instructions have an encoding. Two checks: an address immediate is in 0 to 0xFFF, a sprite height
is in 0 to 15 (R84). Register numbers and byte immediates are in range by their types. -/

namespace Sys2Proof

/-- An address immediate fits the 12 bits of `nnn` (R82, R84). -/
def addressFits (nnn : Word) : Bool := decide (nnn.toNat < 0x1000)

/-- A byte count fits the 4 bits of `n` (R82, R84). -/
def countFits (n : Nat) : Bool := decide (n < 16)

/-- The instruction's fields fit its format (R83). -/
def Instr.wf : Instr → Bool
  | .jp nnn => addressFits nnn
  | .call nnn => addressFits nnn
  | .ldINnn nnn => addressFits nnn
  | .jpV0Nnn nnn => addressFits nnn
  | .drwVxVyN _ _ n => countFits n
  | .cls => true
  | .ret => true
  | .seVxNn _ _ => true
  | .sneVxNn _ _ => true
  | .seVxVy _ _ => true
  | .ldVxNn _ _ => true
  | .addVxNn _ _ => true
  | .ldVxVy _ _ => true
  | .orVxVy _ _ => true
  | .andVxVy _ _ => true
  | .xorVxVy _ _ => true
  | .addVxVy _ _ => true
  | .subVxVy _ _ => true
  | .shrVx _ _ => true
  | .subnVxVy _ _ => true
  | .shlVx _ _ => true
  | .sneVxVy _ _ => true
  | .rndVxNn _ _ => true
  | .skpVx _ => true
  | .sknpVx _ => true
  | .ldVxDt _ => true
  | .ldVxK _ => true
  | .ldDtVx _ => true
  | .ldStVx _ => true
  | .addIVx _ => true
  | .ldFVx _ => true
  | .ldBVx _ => true
  | .ldMemVx _ => true
  | .ldVxMem _ => true

end Sys2Proof
end

