-- ==== Sys2Proof/Decode.lean ====
section
/-! DEFINITION. The decoder (R80 to R89) and, after it, the encoder, written from the same formats (R83). -/

namespace Sys2Proof

/-! ## Byte order (R58) -/

/-- `hi ++ lo`, the word whose more significant byte is `hi` (R5, R58). -/
def wordOf (hi lo : Byte) : Word := hi ++ lo

/-- Bits 15:8 of a word (R58). -/
def highByte (w : Word) : Byte := w.extractLsb' 8 8

/-- Bits 7:0 of a word (R58). -/
def lowByte (w : Word) : Byte := w.extractLsb' 0 8

/-! ## The fields of a word (R82) -/

/-- The opcode class, `op[15:12]`. -/
def fieldClass (op : Word) : Nat := (op.extractLsb' 12 4).toNat

/-- Register index `x`, `op[11:8]`. -/
def fieldX (op : Word) : Reg := ⟨(op.extractLsb' 8 4).toNat, (op.extractLsb' 8 4).isLt⟩

/-- Register index `y`, `op[7:4]`. -/
def fieldY (op : Word) : Reg := ⟨(op.extractLsb' 4 4).toNat, (op.extractLsb' 4 4).isLt⟩

/-- `n`, `op[3:0]`. -/
def fieldN (op : Word) : Nat := (op.extractLsb' 0 4).toNat

/-- `nn`, `op[7:0]`. -/
def fieldNN (op : Word) : Byte := op.extractLsb' 0 8

/-- `nnn`, `op[11:0]`, as the 16-bit address it is used as: the upper four bits are zero (R84). -/
def fieldNNN (op : Word) : Word := (op.extractLsb' 0 12).setWidth 16

/-! ## The decoder (R85, R86) -/

/-- Class 0: the whole word is the distinguishing field (R85). -/
def decodeClass0 (op : Word) : Option Instr :=
  if op = 0x00E0#16 then some .cls
  else if op = 0x00EE#16 then some .ret
  else none

/-- Class 5: `n` distinguishes (R85). -/
def decodeClass5 (op : Word) : Option Instr :=
  match fieldN op with
  | 0x0 => some (.seVxVy (fieldX op) (fieldY op))
  | _ => none

/-- Class 8: `n` distinguishes (R85). -/
def decodeClass8 (op : Word) : Option Instr :=
  match fieldN op with
  | 0x0 => some (.ldVxVy (fieldX op) (fieldY op))
  | 0x1 => some (.orVxVy (fieldX op) (fieldY op))
  | 0x2 => some (.andVxVy (fieldX op) (fieldY op))
  | 0x3 => some (.xorVxVy (fieldX op) (fieldY op))
  | 0x4 => some (.addVxVy (fieldX op) (fieldY op))
  | 0x5 => some (.subVxVy (fieldX op) (fieldY op))
  | 0x6 => some (.shrVx (fieldX op) (fieldY op))
  | 0x7 => some (.subnVxVy (fieldX op) (fieldY op))
  | 0xE => some (.shlVx (fieldX op) (fieldY op))
  | _ => none

/-- Class 9: `n` distinguishes (R85). -/
def decodeClass9 (op : Word) : Option Instr :=
  match fieldN op with
  | 0x0 => some (.sneVxVy (fieldX op) (fieldY op))
  | _ => none

/-- Class E: `nn` distinguishes (R85). -/
def decodeClassE (op : Word) : Option Instr :=
  match (fieldNN op).toNat with
  | 0x9E => some (.skpVx (fieldX op))
  | 0xA1 => some (.sknpVx (fieldX op))
  | _ => none

/-- Class F: `nn` distinguishes (R85). -/
def decodeClassF (op : Word) : Option Instr :=
  match (fieldNN op).toNat with
  | 0x07 => some (.ldVxDt (fieldX op))
  | 0x0A => some (.ldVxK (fieldX op))
  | 0x15 => some (.ldDtVx (fieldX op))
  | 0x18 => some (.ldStVx (fieldX op))
  | 0x1E => some (.addIVx (fieldX op))
  | 0x29 => some (.ldFVx (fieldX op))
  | 0x33 => some (.ldBVx (fieldX op))
  | 0x55 => some (.ldMemVx (fieldX op))
  | 0x65 => some (.ldVxMem (fieldX op))
  | _ => none

/-- The instruction a word stands for; `none` for an illegal word (R85, R86, R87). -/
def decodeWord (op : Word) : Option Instr :=
  match fieldClass op with
  | 0x0 => decodeClass0 op
  | 0x1 => some (.jp (fieldNNN op))
  | 0x2 => some (.call (fieldNNN op))
  | 0x3 => some (.seVxNn (fieldX op) (fieldNN op))
  | 0x4 => some (.sneVxNn (fieldX op) (fieldNN op))
  | 0x5 => decodeClass5 op
  | 0x6 => some (.ldVxNn (fieldX op) (fieldNN op))
  | 0x7 => some (.addVxNn (fieldX op) (fieldNN op))
  | 0x8 => decodeClass8 op
  | 0x9 => decodeClass9 op
  | 0xA => some (.ldINnn (fieldNNN op))
  | 0xB => some (.jpV0Nnn (fieldNNN op))
  | 0xC => some (.rndVxNn (fieldX op) (fieldNN op))
  | 0xD => some (.drwVxVyN (fieldX op) (fieldY op) (fieldN op))
  | 0xE => decodeClassE op
  | 0xF => decodeClassF op
  | _ => none

/-- Why a byte sequence does not start with an instruction. -/
inductive DecodeError where
  /-- The two bytes form a word that matches no row of the opcode map (R87). -/
  | illegalInstruction (op : Word)
  /-- Fewer than the two bytes of an instruction (R80). -/
  | truncated
  deriving DecidableEq, Repr

/-- Decode the first instruction of a byte sequence, big-endian (R58, R80), and give the bytes after it. -/
def decode : List Byte → Except DecodeError (Instr × List Byte)
  | hi :: lo :: rest =>
    match decodeWord (wordOf hi lo) with
    | some i => .ok (i, rest)
    | none => .error (.illegalInstruction (wordOf hi lo))
  | _ => .error .truncated

/-- The bytes of an instruction word as memory holds them: bits 15:8 at the lower address (R58). -/
def wordBytes (op : Word) : List Byte := [highByte op, lowByte op]

/-- The 16-bit word that a table row's bits give: bits at and above `nbits` are zero. -/
def tableWord (nbits w : Nat) : Word := BitVec.ofNat 16 (w % 2 ^ nbits)

/-- The instruction the decoder reads from an instruction whose bits, numbered as spec/opcode_table.json numbers them,
are `w`. -/
def decodeTableWord (nbits w : Nat) : Option Instr :=
  match decode (wordBytes (tableWord nbits w)) with
  | .ok (i, _) => some i
  | .error _ => none

/-! ## The encoder (R83, R86) -/

/-- A register number as a 4-bit field. -/
def regField (r : Reg) : BitVec 4 := BitVec.ofNat 4 r.val

/-- Format `NNN`: class, then the low 12 bits of the address. -/
def encodeNNN (c : BitVec 4) (nnn : Word) : Word := c ++ nnn.extractLsb' 0 12

/-- Format `XNN`: class, x, nn. -/
def encodeXNN (c : BitVec 4) (x : Reg) (nn : Byte) : Word := c ++ (regField x ++ nn)

/-- Formats `XY` and `XYN`: class, x, y, sub-opcode or n. -/
def encodeXYN (c : BitVec 4) (x y : Reg) (n : BitVec 4) : Word := c ++ (regField x ++ (regField y ++ n))

/-- The word of an instruction (R86). -/
def encode : Instr → Word
  | .cls => 0x00E0#16
  | .ret => 0x00EE#16
  | .jp nnn => encodeNNN 0x1#4 nnn
  | .call nnn => encodeNNN 0x2#4 nnn
  | .seVxNn x nn => encodeXNN 0x3#4 x nn
  | .sneVxNn x nn => encodeXNN 0x4#4 x nn
  | .seVxVy x y => encodeXYN 0x5#4 x y 0x0#4
  | .ldVxNn x nn => encodeXNN 0x6#4 x nn
  | .addVxNn x nn => encodeXNN 0x7#4 x nn
  | .ldVxVy x y => encodeXYN 0x8#4 x y 0x0#4
  | .orVxVy x y => encodeXYN 0x8#4 x y 0x1#4
  | .andVxVy x y => encodeXYN 0x8#4 x y 0x2#4
  | .xorVxVy x y => encodeXYN 0x8#4 x y 0x3#4
  | .addVxVy x y => encodeXYN 0x8#4 x y 0x4#4
  | .subVxVy x y => encodeXYN 0x8#4 x y 0x5#4
  | .shrVx x y => encodeXYN 0x8#4 x y 0x6#4
  | .subnVxVy x y => encodeXYN 0x8#4 x y 0x7#4
  | .shlVx x y => encodeXYN 0x8#4 x y 0xE#4
  | .sneVxVy x y => encodeXYN 0x9#4 x y 0x0#4
  | .ldINnn nnn => encodeNNN 0xA#4 nnn
  | .jpV0Nnn nnn => encodeNNN 0xB#4 nnn
  | .rndVxNn x nn => encodeXNN 0xC#4 x nn
  | .drwVxVyN x y n => encodeXYN 0xD#4 x y (BitVec.ofNat 4 n)
  | .skpVx x => encodeXNN 0xE#4 x 0x9E#8
  | .sknpVx x => encodeXNN 0xE#4 x 0xA1#8
  | .ldVxDt x => encodeXNN 0xF#4 x 0x07#8
  | .ldVxK x => encodeXNN 0xF#4 x 0x0A#8
  | .ldDtVx x => encodeXNN 0xF#4 x 0x15#8
  | .ldStVx x => encodeXNN 0xF#4 x 0x18#8
  | .addIVx x => encodeXNN 0xF#4 x 0x1E#8
  | .ldFVx x => encodeXNN 0xF#4 x 0x29#8
  | .ldBVx x => encodeXNN 0xF#4 x 0x33#8
  | .ldMemVx x => encodeXNN 0xF#4 x 0x55#8
  | .ldVxMem x => encodeXNN 0xF#4 x 0x65#8

/-! ## The opcode map (R86), as the spec tables it -/

/-- The (mask, match) pairs of R86 for classes 0 to 9, in the table's order. -/
def opcodeMapLow : List (Word × Word) :=
  [(0xFFFF#16, 0x00E0#16), (0xFFFF#16, 0x00EE#16), (0xF000#16, 0x1000#16), (0xF000#16, 0x2000#16), (0xF000#16, 0x3000#16),
   (0xF000#16, 0x4000#16), (0xF00F#16, 0x5000#16), (0xF000#16, 0x6000#16), (0xF000#16, 0x7000#16), (0xF00F#16, 0x8000#16),
   (0xF00F#16, 0x8001#16), (0xF00F#16, 0x8002#16), (0xF00F#16, 0x8003#16), (0xF00F#16, 0x8004#16), (0xF00F#16, 0x8005#16),
   (0xF00F#16, 0x8006#16), (0xF00F#16, 0x8007#16), (0xF00F#16, 0x800E#16), (0xF00F#16, 0x9000#16)]

/-- The (mask, match) pairs of R86 for classes A to F, in the table's order. -/
def opcodeMapHigh : List (Word × Word) :=
  [(0xF000#16, 0xA000#16), (0xF000#16, 0xB000#16), (0xF000#16, 0xC000#16), (0xF000#16, 0xD000#16), (0xF0FF#16, 0xE09E#16),
   (0xF0FF#16, 0xE0A1#16), (0xF0FF#16, 0xF007#16), (0xF0FF#16, 0xF00A#16), (0xF0FF#16, 0xF015#16), (0xF0FF#16, 0xF018#16),
   (0xF0FF#16, 0xF01E#16), (0xF0FF#16, 0xF029#16), (0xF0FF#16, 0xF033#16), (0xF0FF#16, 0xF055#16), (0xF0FF#16, 0xF065#16)]

/-- The 34 rows of R86 as (mask, match). -/
def opcodeMap : List (Word × Word) := opcodeMapLow ++ opcodeMapHigh

/-- "An instruction matches a row of the opcode map when `op & mask = match`" (R83). -/
def matchesRow (op : Word) (row : Word × Word) : Bool := op &&& row.1 == row.2

end Sys2Proof
end

