-- ==== Sys2Proof/Config.lean ====
section
/-! DEFINITION. The constants of R4, its two parameters as a record that an instance of the hardware fixes (their defaults
stand in Machine/Font.lean), and the free values: the environment's answers that nothing constrains (R9). -/

namespace Sys2Proof

/-- Memory capacity in bytes; valid addresses are 0x000 to 0xFFF (R4, R50). -/
def Config.memSize : Nat := 4096

/-- Address of glyph 0 (R4, R51). -/
def Config.fontBase : Nat := 0x000

/-- Bytes per glyph (R4, R52). -/
def Config.glyphBytes : Nat := 5

/-- Number of glyphs, digit order 0 to F (R4, R51). -/
def Config.fontGlyphs : Nat := 16

/-- First address of the program region (R4, R51). -/
def Config.programBase : Nat := 0x200

/-- Maximum call-stack depth (R4, R25). -/
def Config.stackDepth : Nat := 16

/-- Timer decrements per second of wall-clock time (R4, R220). -/
def Config.timerHz : Nat := 60

/-- The glyph bytes in address order, 5 to a glyph (R52). -/
abbrev FontRom := Vector Byte (Config.fontGlyphs * Config.glyphBytes)

/-- A resolution of wall-clock time: how many units make a second, at least one (R4, R27; log 12). -/
abbrev TimeUnits := { u : Nat // 0 < u }

/-- What R4 calls a parameter: an instance of the hardware fixes it, and no rule of the engine does (log 11, log 12). -/
structure Params where
  /-- `FONT_ROM`, the spec's decision D12 (R52). -/
  fontRom : FontRom
  /-- `TIME_UNITS_PER_SECOND`, the resolution of the argument of `Tick`, the spec's decision D8 (R216). -/
  timeUnitsPerSecond : TimeUnits
  deriving DecidableEq, Repr

/-- Free value: the random byte offered to the n-th `Step` whose environment is not scheduled (R9, R122, R226;
log 3). -/
opaque Config.freeRnd : Nat → Byte

/-- Free value: the keypad's 256 one-bit answers to the n-th `Step` whose environment is not scheduled; bit k answers
index k, indices above 15 included (R9, R170, R225; log 4). -/
opaque Config.freeKeyDown : Nat → BitVec 256

/-- Free value: the display's collision answer to the n-th `Step` whose environment is not scheduled (R9, R161, R223;
log 5). -/
opaque Config.freeCollided : Nat → Bool

end Sys2Proof
end

