-- ==== Sys2Proof/Machine/Font.lean ====
section
/-! DEFINITION. The default values of the parameters (R4, R52), and the reset contents of memory for any font (R34, R51). -/

namespace Sys2Proof

/-- Glyphs 0 to 3 of the default `FONT_ROM` (R52). -/
def Config.fontRom0 : List Byte :=
  [0xF0, 0x90, 0x90, 0x90, 0xF0,
   0x20, 0x60, 0x20, 0x20, 0x70,
   0xF0, 0x10, 0xF0, 0x80, 0xF0,
   0xF0, 0x10, 0xF0, 0x10, 0xF0]

/-- Glyphs 4 to 7 of the default `FONT_ROM` (R52). -/
def Config.fontRom4 : List Byte :=
  [0x90, 0x90, 0xF0, 0x10, 0x10,
   0xF0, 0x80, 0xF0, 0x10, 0xF0,
   0xF0, 0x80, 0xF0, 0x90, 0xF0,
   0xF0, 0x10, 0x20, 0x40, 0x40]

/-- Glyphs 8 to B of the default `FONT_ROM` (R52). -/
def Config.fontRom8 : List Byte :=
  [0xF0, 0x90, 0xF0, 0x90, 0xF0,
   0xF0, 0x90, 0xF0, 0x10, 0xF0,
   0xF0, 0x90, 0xF0, 0x90, 0x90,
   0xE0, 0x90, 0xE0, 0x90, 0xE0]

/-- Glyphs C to F of the default `FONT_ROM` (R52). -/
def Config.fontRomC : List Byte :=
  [0xF0, 0x80, 0x80, 0x80, 0xF0,
   0xE0, 0x90, 0x90, 0x90, 0xE0,
   0xF0, 0x80, 0xF0, 0x80, 0xF0,
   0xF0, 0x80, 0xF0, 0x80, 0x80]

/-- The default of `FONT_ROM` (R52, the spec's decision D12). PRESUMED: the spec takes these bytes from general knowledge
(log 11); no rule and no statement rests on one of them. -/
def Config.defaultFontRom : FontRom :=
  ⟨(Config.fontRom0 ++ Config.fontRom4 ++ Config.fontRom8 ++ Config.fontRomC).toArray, rfl⟩

/-- The default of `TIME_UNITS_PER_SECOND`: the millisecond (R4, the spec's decision D8; log 12). -/
def Config.defaultTimeUnits : TimeUnits := ⟨1000, by decide⟩

/-- The instance of the hardware whose parameters have their default values (R4). -/
def Params.default : Params where
  fontRom := Config.defaultFontRom
  timeUnitsPerSecond := Config.defaultTimeUnits

/-- What the byte at an address reads as after `Reset`, so what an address the memory does not list reads as: the font
where there is one (R34, R51, R250; log 10). Past the capacity it is 0 and no access reaches it (log 20). -/
def Config.resetByte (rom : FontRom) (a : Nat) : Byte :=
  if h : a < Config.fontGlyphs * Config.glyphBytes then rom[a]'h else 0

end Sys2Proof
end

