-- ==== Sys2Proof/Machine/State.lean ====
section
/-! DEFINITION. The state of the engine (R20), its outputs (R37), the environment's answers (R9), the operations on it
(R35), and the state after `Reset` (R34, R250, R251). -/

namespace Sys2Proof.Machine

/-- The record of a fatal fault, as R200 and R201 to R204 give it. The spec gives every one of them its effect (the
engine halts, R209), so a step that raises one answers a NEXT state whose mode is `halted f`; `Host.Outcome.fault`
is never answered (log 7). That is safe: nothing stops where the hardware goes on. -/
inductive Fault where
  /-- Raised by the fetch of any `Step` and by `Dxyn`, `Fx33`, `Fx55`, `Fx65`: `addr` is the lowest out-of-range
  address of the access, `pc` the address of the instruction (R201). Safe: the spec's own fault. -/
  | outOfBounds (addr : Nat) (pc : Word)
  /-- Raised by the decoder for a word that matches no row of the opcode map (R202). Safe: the spec's own fault. -/
  | illegalInstruction (opcode : Word) (pc : Word)
  /-- Raised by `2nnn` with 16 addresses on the stack (R203). Safe: the spec's own fault. -/
  | stackOverflow (pc : Word)
  /-- Raised by `00EE` with an empty stack (R204). Safe: the spec's own fault. -/
  | stackUnderflow (pc : Word)
  deriving DecidableEq, Repr

/-- Why the model gives no meaning. -/
inductive Refusal where
  /-- Answered by `exec` for an instruction that has no meaning yet; no arm does so in this model. Safe: it stops. -/
  | notModelled (mnemonic : String)
  deriving DecidableEq, Repr

/-- The engine's control state (R28, R29, R30). -/
inductive Mode where
  /-- After `Reset`, before `Initialize`. -/
  | uninitialized
  /-- `Step` executes one instruction. -/
  | running
  /-- Entered by `Fx0A`; `xw` is its `x` field (R29). -/
  | waitingForKey (xw : Reg)
  /-- Entered by a fatal fault; `f` is its record (R30). -/
  | halted (f : Fault)
  deriving DecidableEq, Repr

/-- The result an operation returns (R35). -/
inductive Result where
  | ok
  | waiting
  | halted (f : Fault)
  | invalidState
  | loadError
  deriving DecidableEq, Repr

/-- A command to the Display collaborator (R223). -/
inductive DisplayCommand where
  | clear
  | draw (vx vy : Byte) (sprite : List Byte)
  deriving DecidableEq, Repr

/-- The environment's answers to one `Step` (R9). -/
structure Env where
  /-- The random byte of `Cxnn`. -/
  rnd : Byte
  /-- `env.key_down` as data: bit `k` is the answer for key index `k`, 0 to 255 (R170). -/
  keyDown : BitVec 256
  /-- The display's answer to `draw`. -/
  collided : Bool
  deriving DecidableEq, Repr

/-- The six operations of the block, with their arguments (R35). -/
inductive Operation where
  /-- `Reset` (R250). -/
  | reset
  /-- `Load(image, base)` (R252). -/
  | load (image : List Byte) (base : Nat)
  /-- `Initialize(a)` (R253). -/
  | initializeAt (a : Word)
  /-- `Step(env)` (R92). -/
  | step (env : Env)
  /-- `Tick(elapsed)`, in time units, milliseconds by default (R216). -/
  | tick (elapsed : Nat)
  /-- `KeyEvent(k)` (R173). -/
  | keyEvent (k : Key)
  deriving DecidableEq, Repr, Inhabited

/-- What is performed once nothing is scheduled any more (log 24). -/
inductive Unscheduled where
  /-- A `Step` each time, its environment free. -/
  | steps
  /-- Any operation each time: an execution is any finite or infinite sequence of operations (R36). -/
  | anything
  deriving DecidableEq, Repr

end Sys2Proof.Machine

/-- Free value: the n-th operation that no schedule gives, any of the six with any arguments (R10, R36; log 24). -/
opaque Sys2Proof.Config.freeOperation : Nat → Sys2Proof.Machine.Operation

namespace Sys2Proof.Machine

/-- The 4096 bytes of memory (R50), as the cells that differ from their reset contents, addresses rising;
`Memory.wf` (Ops.lean) is the canonical form. The reset contents hold the font of the instance (log 10, log 11). -/
abbrev Memory := List Host.Cell

/-- The state. The first nine fields are the elements of R20, the next three the outputs of R37 that must be held to be
read, the next four the model's own (log 1, log 6, log 24), the last the parameters of R4 (log 11, log 12). -/
structure State where
  /-- V0 to VF (R21, R22). -/
  v : Vector Byte 16
  /-- The index register I (R23). -/
  i : Word
  /-- The program counter (R24). -/
  pc : Word
  /-- The call stack, the oldest return address first (R25). -/
  stack : List Word
  /-- The delay timer DT (R26). -/
  dt : Byte
  /-- The sound timer ST (R26). -/
  st : Byte
  /-- The time debt carried by `Tick`, in 1/60 of the time unit, 1/60 ms by default (R27). -/
  residue : Nat
  /-- The control state (R28). -/
  mode : Mode
  /-- The memory (R31). -/
  mem : Memory
  /-- The result of the latest operation (R35, R37; log 8). -/
  result : Result
  /-- The Display commands emitted so far, the oldest first (R37, R223; log 13). -/
  display : List DisplayCommand
  /-- The key indices presented to the keypad so far, the oldest first (R37, R225; log 13). -/
  keyQueries : List Byte
  /-- The environment's answers to the `Step` in progress (R9; log 6). -/
  env : Env
  /-- How many unscheduled operations have been drawn (log 6, log 24). -/
  draws : Nat
  /-- The operations still to be performed, the next one first (R36; log 1). -/
  pending : List Operation
  /-- What is performed once nothing is scheduled any more (R36; log 24). -/
  unscheduled : Unscheduled
  /-- The parameters of this instance of the hardware; no operation changes them (R4; log 11, log 12). -/
  params : Params
  deriving DecidableEq, Repr

/-- The state after `Reset` of an instance of the hardware (R34, R250), which is also its state at power-on (R251): no font
byte and no zero byte is listed, since an unlisted address reads as its reset contents. -/
def State.resetWith (p : Params) : State where
  v := Vector.replicate 16 0x00#8
  i := 0x0000#16
  pc := 0x0200#16
  stack := []
  dt := 0x00#8
  st := 0x00#8
  residue := 0
  mode := .uninitialized
  mem := []
  result := .ok
  display := []
  keyQueries := []
  env := { rnd := 0x00#8, keyDown := 0#256, collided := false }
  draws := 0
  pending := []
  unscheduled := .steps
  params := p

/-- The state after `Reset` of the instance whose parameters have the default values that R4 gives. -/
def State.reset : State := State.resetWith Params.default

/-- What an operation or an instruction answers. -/
abbrev Answer := Host.Outcome State Fault Refusal

end Sys2Proof.Machine
end

