-- ==== Sys2Proof/Machine/Ops.lean ====
section
/-! DEFINITION. The primitives of R7 over memory, registers, call stack and outputs, and the one way a fault is taken
(R209). -/

namespace Sys2Proof.Machine

/-! ## Memory (R50 to R58) -/

/-- The byte at an address: the listed one, or the reset contents (R60). -/
def Memory.read (rom : FontRom) : Memory → Nat → Byte
  | [], a => Config.resetByte rom a
  | (k, c) :: m, a => if k = a then c else Memory.read rom m a

/-- The memory with no entry for an address, so that the address reads as its reset contents. -/
def Memory.erase : Memory → Nat → Memory
  | [], _ => []
  | (k, c) :: m, a => if k = a then Memory.erase m a else (k, c) :: Memory.erase m a

/-- Place an entry before the first of a higher address. -/
def Memory.insert : Memory → Nat → Byte → Memory
  | [], a, b => [(a, b)]
  | (k, c) :: m, a, b => if a < k then (a, b) :: (k, c) :: m else (k, c) :: Memory.insert m a b

/-- Store a byte, keeping the canonical form (R57): writing the reset contents removes the entry. -/
def Memory.write (rom : FontRom) (m : Memory) (a : Nat) (b : Byte) : Memory :=
  if b = Config.resetByte rom a then m.erase a else (m.erase a).insert a b

/-- The canonical form above a lowest address: addresses rising and inside the capacity, no entry equal to the reset
contents. -/
def Memory.wfFrom (rom : FontRom) : Nat → Memory → Bool
  | _, [] => true
  | low, (k, c) :: m =>
    decide (low ≤ k) && decide (k < Config.memSize) && decide (c ≠ Config.resetByte rom k) &&
      Memory.wfFrom rom (k + 1) m

/-- The canonical form of memory. -/
def Memory.wf (rom : FontRom) (m : Memory) : Bool := Memory.wfFrom rom 0 m

/-- The `n` bytes at `base` and up, the lowest address first. -/
def Memory.readBytes (rom : FontRom) (m : Memory) (base : Nat) : Nat → List Byte
  | 0 => []
  | n + 1 => m.read rom base :: Memory.readBytes rom m (base + 1) n

/-- Store bytes at `base` and up, the first at the lowest address. -/
def Memory.writeBytes (rom : FontRom) (m : Memory) (base : Nat) : List Byte → Memory
  | [] => m
  | b :: bs => (Memory.writeBytes rom m (base + 1) bs).write rom base b

/-- The word at an address and the next, big-endian (R58). -/
def Memory.readWord (rom : FontRom) (m : Memory) (a : Nat) : Word := wordOf (m.read rom a) (m.read rom (a + 1))

/-- The byte at an address, of the machine's memory (R7). -/
def State.byteAt (s : State) (a : Nat) : Byte := s.mem.read s.params.fontRom a

/-- The `n` bytes at an address and up, of the machine's memory (R7, R161). -/
def State.bytesAt (s : State) (base n : Nat) : List Byte := s.mem.readBytes s.params.fontRom base n

/-- The lowest out-of-range address of the `n` bytes at `base` and up, if there is one: the whole access is checked
before any byte moves, and an access of no bytes has none (R53, R56, R161, R201). -/
def accessFault (base n : Nat) : Option Nat :=
  if n = 0 then none
  else if base + (n - 1) ≥ Config.memSize then some (max base Config.memSize)
  else none

/-! ## Registers (R21 to R24) -/

/-- `V[x]` (R7). -/
def State.readV (s : State) (x : Reg) : Byte := s.v[x.val]

/-- `V[x] <- b` (R7). -/
def State.writeV (s : State) (x : Reg) (b : Byte) : State := { s with v := s.v.set x.val b }

/-- `I <- w` (R7). -/
def State.writeI (s : State) (w : Word) : State := { s with i := w }

/-- `pc <- target` (R7, R93 "set directly"). -/
def State.jump (s : State) (target : Word) : State := { s with pc := target }

/-- `pc <- pc + 2` (R93). -/
def State.advance (s : State) : State := s.jump (s.pc + 2)

/-- `pc <- pc + 4` if the condition holds, else `pc <- pc + 2` (R93). -/
def State.skipIf (s : State) (c : Bool) : State := s.jump (if c then s.pc + 4 else s.pc + 2)

/-- `DT <- b` (R7). -/
def State.setDt (s : State) (b : Byte) : State := { s with dt := b }

/-- `ST <- b` (R7). -/
def State.setSt (s : State) (b : Byte) : State := { s with st := b }

/-- `mode <- m` (R28, R40). -/
def State.setMode (s : State) (m : Mode) : State := { s with mode := m }

/-- Store bytes at an address and up, all of them inside the capacity (R7, R56). -/
def State.store (s : State) (base : Nat) (bs : List Byte) : State :=
  { s with mem := s.mem.writeBytes s.params.fontRom base bs }

/-! ## Call stack (R25) -/

/-- The current depth of the call stack (R25). -/
def State.depth (s : State) : Nat := s.stack.length

/-- `Push(a)` with room for it: append (R25). -/
def State.push (s : State) (a : Word) : State := { s with stack := s.stack ++ [a] }

/-- The stack without its last element (R25). -/
def State.dropTop (s : State) : State := { s with stack := s.stack.dropLast }

/-! ## Outputs (R37, R223, R225) -/

/-- `emit` a Display command (R7, R223). -/
def State.emit (s : State) (c : DisplayCommand) : State := { s with display := s.display ++ [c] }

/-- Present a key index to the keypad (R225). -/
def State.presentKey (s : State) (k : Byte) : State := { s with keyQueries := s.keyQueries ++ [k] }

/-- `sound_active` (R37, R221). -/
def State.soundActive (s : State) : Bool := decide (s.st ≠ 0)

/-- `waiting` (R37). -/
def State.isWaiting (s : State) : Bool :=
  match s.mode with
  | .waitingForKey _ => true
  | .uninitialized => false
  | .running => false
  | .halted _ => false

/-- The environment's answers to this `Step` (R9). -/
def State.withEnv (s : State) (e : Env) : State := { s with env := e }

/-- The schedule that is left (R36; log 1). -/
def State.withPending (s : State) (ops : List Operation) : State := { s with pending := ops }

/-- What is performed once nothing is scheduled any more (R36; log 24). -/
def State.withUnscheduled (s : State) (u : Unscheduled) : State := { s with unscheduled := u }

/-- One more unscheduled operation has been drawn (log 6, log 24). -/
def State.drawn (s : State) : State := { s with draws := s.draws + 1 }

/-- Record the result an operation returns (R35, R37). -/
def State.returns (s : State) (r : Result) : State := { s with result := r }

/-! ## Taking a fault, and the way out (R207 to R210) -/

/-- `raise f`: the engine halts with the fault's record and nothing else changes (R7, R207, R209). -/
def raise (f : Fault) (s : State) : Answer := .next (s.setMode (.halted f))

/-- Check an access of `n` bytes at `base`, and go on only if all of it is inside the capacity (R53, R56). -/
def withAccess (base n : Nat) (s : State) (k : Answer) : Answer :=
  match accessFault base n with
  | some a => raise (.outOfBounds a s.pc) s
  | none => k

/-- `Reset` (R250): every element of R20 at its reset value. There is no return from a fault: this is the only way out of
`Halted` (R210). The output traces, the environment and the schedule are outside the hardware and stay (log 13); the
parameters are the instance's. -/
def opReset (s : State) : State :=
  { State.resetWith s.params with
    display := s.display
    keyQueries := s.keyQueries
    env := s.env
    draws := s.draws
    pending := s.pending
    unscheduled := s.unscheduled }

/-! ## Fetch (R81) -/

/-- `op <- MemRead(pc, 2)` (R81): the word, or the fault of the fetch. -/
def fetch (s : State) : Except Fault Word :=
  match accessFault s.pc.toNat 2 with
  | some a => .error (.outOfBounds a s.pc)
  | none => .ok (s.mem.readWord s.params.fontRom s.pc.toNat)

end Sys2Proof.Machine
end

