-- ==== Sys2Proof/Machine/Flags.lean ====
section
/-! DEFINITION. The flag values of R22 and the order of a result and its flag (R8, R139). -/

namespace Sys2Proof.Machine

/-- The byte a flag is written as: 0x00 or 0x01 (R22). -/
def flagByte (c : Bool) : Byte := if c then 0x01#8 else 0x00#8

/-- Carry out of bit 7 (R134). -/
def carryOut (a b : Byte) : Bool := decide (a.toNat + b.toNat > 255)

/-- No borrow: the subtrahend is less than or equal to the minuend (R135, R137). -/
def noBorrow (minuend subtrahend : Byte) : Bool := decide (subtrahend.toNat ≤ minuend.toNat)

/-- The bit a right shift by one drops (R136). -/
def bitOutRight (a : Byte) : Bool := a.getLsbD 0

/-- The bit a left shift by one drops (R138). -/
def bitOutLeft (a : Byte) : Bool := a.getLsbD 7

/-- The sum of the old I and a byte is above 0xFFF (R151). -/
def indexOverflow (i : Word) (a : Byte) : Bool := decide (i.toNat + a.toNat > 0x0FFF)

/-- `V[15] <- flag` (R22). -/
def State.writeFlag (s : State) (c : Bool) : State := s.writeV regVF (flagByte c)

/-- The result to `V[x]` first, the flag to VF last (R139). -/
def State.writeResultFlag (s : State) (x : Reg) (r : Byte) (c : Bool) : State := (s.writeV x r).writeFlag c

end Sys2Proof.Machine
end

