-- ==== Sys2Proof/Machine/Operands.lean ====
section
/-! DEFINITION. The computed operands of R84: effective addresses, register ranges, the font address, decimal digits. -/

namespace Sys2Proof.Machine

/-- The base of every data access: I, as an unbounded address (R53). -/
def State.base (s : State) : Nat := s.i.toNat

/-- `V[0]` to `V[x]`, the lowest register first (R154). -/
def State.regsUpTo (s : State) (x : Reg) : List Byte := s.v.toList.take (x.val + 1)

/-- How many registers `V[0]` to `V[x]` are (R154, R155). -/
def regCount (x : Reg) : Nat := x.val + 1

/-- `V[k] <- M[base + k]` for `k` in 0 to `x`; the registers above are unchanged (R155). -/
def State.loadRegs (s : State) (x : Reg) (base : Nat) : State :=
  { s with v := Vector.ofFn fun k => if k.val ≤ x.val then s.byteAt (base + k.val) else s.v[k.val] }

/-- The address of the glyph of a digit, for any byte (R152). -/
def fontAddress (b : Byte) : Word := BitVec.ofNat 16 (Config.fontBase + b.toNat * Config.glyphBytes)

/-- The decimal digits of a byte: hundreds, tens, ones (R153). -/
def bcdDigits (b : Byte) : List Byte :=
  [BitVec.ofNat 8 (b.toNat / 100), BitVec.ofNat 8 (b.toNat / 10 % 10), BitVec.ofNat 8 (b.toNat % 10)]

/-- The target of `Bnnn`: the offset register is V0 (R103). -/
def State.offsetTarget (s : State) (nnn : Word) : Word := nnn + (s.readV 0).setWidth 16

/-- The answer of the keypad for an 8-bit key index (R170, R225). -/
def Env.isDown (e : Env) (k : Byte) : Bool := e.keyDown.getLsbD k.toNat

/-- The default no-display hook: every `draw` answers no collision (R224). -/
def Env.noDisplay (e : Env) : Env := { e with collided := false }

end Sys2Proof.Machine
end

