-- ==== Sys2Proof/Machine/Alu.lean ====
section
/-! DEFINITION. Register-to-register operations: `8xy0` to `8xy7`, `8xyE` (R130 to R140). -/

namespace Sys2Proof.Machine

/-- `8xy0`: copy (R130). -/
def execLdVxVy (x y : Reg) (s : State) : Answer := .next (s.writeV x (s.readV y)).advance

/-- `8xy1`: OR; VF is no flag here (R131). -/
def execOrVxVy (x y : Reg) (s : State) : Answer := .next (s.writeV x (s.readV x ||| s.readV y)).advance

/-- `8xy2`: AND; VF is no flag here (R132). -/
def execAndVxVy (x y : Reg) (s : State) : Answer := .next (s.writeV x (s.readV x &&& s.readV y)).advance

/-- `8xy3`: exclusive OR; VF is no flag here (R133). -/
def execXorVxVy (x y : Reg) (s : State) : Answer := .next (s.writeV x (s.readV x ^^^ s.readV y)).advance

/-- `8xy4`: add, VF is the carry (R134). -/
def execAddVxVy (x y : Reg) (s : State) : Answer :=
  let a := s.readV x
  let b := s.readV y
  .next (s.writeResultFlag x (BitVec.ofNat 8 (a.toNat + b.toNat)) (carryOut a b)).advance

/-- `8xy5`: `V[x] - V[y]`, VF is "no borrow" (R135). -/
def execSubVxVy (x y : Reg) (s : State) : Answer :=
  let a := s.readV x
  let b := s.readV y
  .next (s.writeResultFlag x (a - b) (noBorrow a b)).advance

/-- `8xy6`: logical shift right by one, VF is the old bit 0; Vy is not read (R136, R89). -/
def execShrVx (x _y : Reg) (s : State) : Answer :=
  let a := s.readV x
  .next (s.writeResultFlag x (a >>> 1) (bitOutRight a)).advance

/-- `8xy7`: `V[y] - V[x]`, VF is "no borrow" (R137). -/
def execSubnVxVy (x y : Reg) (s : State) : Answer :=
  let a := s.readV x
  let b := s.readV y
  .next (s.writeResultFlag x (b - a) (noBorrow b a)).advance

/-- `8xyE`: shift left by one, VF is the old bit 7; Vy is not read (R138, R89). -/
def execShlVx (x _y : Reg) (s : State) : Answer :=
  let a := s.readV x
  .next (s.writeResultFlag x (a <<< 1) (bitOutLeft a)).advance

end Sys2Proof.Machine
end

