-- ==== Sys2Proof/Machine/Control.lean ====
section
/-! DEFINITION. Control transfer: `00EE`, `1nnn`, `2nnn`, `Bnnn` (R100 to R104). -/

namespace Sys2Proof.Machine

/-- `00EE`: the popped value is the new pc as it is; an empty stack faults (R100). -/
def execRet (s : State) : Answer :=
  match s.stack.getLast? with
  | none => raise (.stackUnderflow s.pc) s
  | some a => .next (s.dropTop.jump a)

/-- `1nnn`: jump (R101). -/
def execJp (nnn : Word) (s : State) : Answer := .next (s.jump nnn)

/-- `2nnn`: push the address after the call, then jump; the seventeenth nested call faults (R102). -/
def execCall (nnn : Word) (s : State) : Answer :=
  if s.depth ≥ Config.stackDepth then raise (.stackOverflow s.pc) s
  else .next ((s.push (s.pc + 2)).jump nnn)

/-- `Bnnn`: jump to `nnn + V[0]`, not reduced (R103). -/
def execJpV0Nnn (nnn : Word) (s : State) : Answer := .next (s.jump (s.offsetTarget nnn))

end Sys2Proof.Machine
end

