-- ==== Sys2Proof/Machine/Display.lean ====
section
/-! DEFINITION. Display instructions: `00E0`, `Dxyn` (R160, R161, R223). -/

namespace Sys2Proof.Machine

/-- `00E0`: emit `clear` (R160). -/
def execCls (s : State) : Answer := .next (s.emit .clear).advance

/-- `Dxyn`: emit `draw(V[x], V[y], sprite)` with the `n` bytes at I and up, VF is the collision answer; no bytes are read
and nothing can fault when `n = 0` (R161). -/
def execDrwVxVyN (x y : Reg) (n : Nat) (s : State) : Answer :=
  withAccess s.base n s
    (.next ((s.emit (.draw (s.readV x) (s.readV y) (s.bytesAt s.base n))).writeFlag s.env.collided).advance)

end Sys2Proof.Machine
end

