-- ==== Sys2Proof/Machine/Immediate.lean ====
section
/-! DEFINITION. Immediate operations: `6xnn`, `7xnn`, `Cxnn` (R120 to R122). -/

namespace Sys2Proof.Machine

/-- `6xnn`: `V[x] <- nn` (R120). -/
def execLdVxNn (x : Reg) (nn : Byte) (s : State) : Answer := .next (s.writeV x nn).advance

/-- `7xnn`: `V[x] <- (V[x] + nn) mod 256`, no flag (R121). -/
def execAddVxNn (x : Reg) (nn : Byte) (s : State) : Answer :=
  .next (s.writeV x (BitVec.ofNat 8 ((s.readV x).toNat + nn.toNat))).advance

/-- `Cxnn`: `V[x] <- env.rnd & nn` (R122). -/
def execRndVxNn (x : Reg) (nn : Byte) (s : State) : Answer := .next (s.writeV x (s.env.rnd &&& nn)).advance

end Sys2Proof.Machine
end

