-- ==== Sys2Proof/Machine/Index.lean ====
section
/-! DEFINITION. Index register and memory transfer: `Annn`, `Fx1E`, `Fx29`, `Fx33`, `Fx55`, `Fx65` (R150 to R155). -/

namespace Sys2Proof.Machine

/-- `Annn`: `I <- nnn` (R150). -/
def execLdINnn (nnn : Word) (s : State) : Answer := .next (s.writeI nnn).advance

/-- `Fx1E`: `I <- (I + V[x]) mod 65536`, VF tells whether the sum of the old I and `V[x]` is above 0xFFF (R151). -/
def execAddIVx (x : Reg) (s : State) : Answer :=
  let a := s.readV x
  .next ((s.writeI (BitVec.ofNat 16 (s.i.toNat + a.toNat))).writeFlag (indexOverflow s.i a)).advance

/-- `Fx29`: `I <- FONT_BASE + V[x] * 5`, the whole byte (R152). -/
def execLdFVx (x : Reg) (s : State) : Answer := .next (s.writeI (fontAddress (s.readV x))).advance

/-- `Fx33`: the decimal digits of `V[x]` at I, I + 1, I + 2 (R153). -/
def execLdBVx (x : Reg) (s : State) : Answer :=
  withAccess s.base 3 s
    (.next (s.store s.base (bcdDigits (s.readV x))).advance)

/-- `Fx55`: `V[0]` to `V[x]` at I to I + x; I is unchanged (R154). -/
def execLdMemVx (x : Reg) (s : State) : Answer :=
  withAccess s.base (regCount x) s
    (.next (s.store s.base (s.regsUpTo x)).advance)

/-- `Fx65`: the bytes at I to I + x into `V[0]` to `V[x]`; I is unchanged (R155). -/
def execLdVxMem (x : Reg) (s : State) : Answer :=
  withAccess s.base (regCount x) s (.next (s.loadRegs x s.base).advance)

end Sys2Proof.Machine
end

