-- ==== Sys2Proof/Machine/Keypad.lean ====
section
/-! DEFINITION. Keypad instructions `Ex9E`, `ExA1`, `Fx0A` and the `KeyEvent` operation (R170 to R173). -/

namespace Sys2Proof.Machine

/-- `Ex9E`: present `V[x]`, skip if the keypad answers "down" (R170). -/
def execSkpVx (x : Reg) (s : State) : Answer :=
  let k := s.readV x
  .next ((s.presentKey k).skipIf (s.env.isDown k))

/-- `ExA1`: present `V[x]`, skip if the keypad answers "not down" (R171). -/
def execSknpVx (x : Reg) (s : State) : Answer :=
  let k := s.readV x
  .next ((s.presentKey k).skipIf (!s.env.isDown k))

/-- `Fx0A`: enter the wait; no other state changes, pc included (R172). -/
def execLdVxK (x : Reg) (s : State) : Answer := .next (s.setMode (.waitingForKey x))

/-- `KeyEvent(k)`: ends a wait and writes the key; dropped in every other mode (R173, R38). -/
def opKeyEvent (k : Key) (s : State) : State :=
  match s.mode with
  | .waitingForKey xw => ((s.writeV xw (BitVec.ofNat 8 k.val)).advance.setMode .running).returns .ok
  | .uninitialized => s.returns .ok
  | .running => s.returns .ok
  | .halted _ => s.returns .ok

end Sys2Proof.Machine
end

