-- ==== Sys2Proof/Machine/Skips.lean ====
section
/-! DEFINITION. Conditional skips on registers: `3xnn`, `4xnn`, `5xy0`, `9xy0` (R110 to R113). -/

namespace Sys2Proof.Machine

/-- `3xnn`: skip if `V[x] = nn` (R110). -/
def execSeVxNn (x : Reg) (nn : Byte) (s : State) : Answer := .next (s.skipIf (s.readV x == nn))

/-- `4xnn`: skip if `V[x] ≠ nn` (R111). -/
def execSneVxNn (x : Reg) (nn : Byte) (s : State) : Answer := .next (s.skipIf (s.readV x != nn))

/-- `5xy0`: skip if `V[x] = V[y]` (R112). -/
def execSeVxVy (x y : Reg) (s : State) : Answer := .next (s.skipIf (s.readV x == s.readV y))

/-- `9xy0`: skip if `V[x] ≠ V[y]` (R113). -/
def execSneVxVy (x y : Reg) (s : State) : Answer := .next (s.skipIf (s.readV x != s.readV y))

end Sys2Proof.Machine
end

