-- ==== Sys2Proof/Machine/Timers.lean ====
section
/-! DEFINITION. Timer access `Fx07`, `Fx15`, `Fx18` (R180 to R182) and the `Tick` operation (R216 to R219). -/

namespace Sys2Proof.Machine

/-- `Fx07`: `V[x] <- DT` (R180). -/
def execLdVxDt (x : Reg) (s : State) : Answer := .next (s.writeV x s.dt).advance

/-- `Fx15`: `DT <- V[x]`; `residue` stays (R181, R268). -/
def execLdDtVx (x : Reg) (s : State) : Answer := .next (s.setDt (s.readV x)).advance

/-- `Fx18`: `ST <- V[x]`; `residue` stays (R182, R268). -/
def execLdStVx (x : Reg) (s : State) : Answer := .next (s.setSt (s.readV x)).advance

/-- `n` decrements of `min(current, 1)` each: `t - min(t, n)` (R216, R217). -/
def agedTimer (t : Byte) (n : Nat) : Byte := BitVec.ofNat 8 (t.toNat - min t.toNat n)

/-- The time debt that a `Tick` works on, in 1/60 of the time unit (R216). -/
def timeDebt (residue elapsed : Nat) : Nat := residue + Config.timerHz * elapsed

/-- `Tick(elapsed)`, the same in every mode, for any resolution: "the same with 1000 replaced by `U`" (R216, R219). -/
def opTick (elapsed : Nat) (s : State) : State :=
  let t := timeDebt s.residue elapsed
  let n := t / s.params.timeUnitsPerSecond.val
  { s with
    residue := t % s.params.timeUnitsPerSecond.val
    dt := agedTimer s.dt n
    st := agedTimer s.st n
    result := .ok }

end Sys2Proof.Machine
end

