-- ==== Sys2Proof/Machine/HostOps.lean ====
section
/-! DEFINITION. The host's operations `Load` and `Initialize` (R252, R253); `Reset` (R250) is in Ops.lean beside the
taking of a fault. -/

namespace Sys2Proof.Machine

/-- `Load(image, base)`: copy the image, or refuse and change nothing (R252, R205, R206, R38). -/
def opLoad (image : List Byte) (base : Nat) (s : State) : State :=
  match s.mode with
  | .uninitialized =>
    if base + image.length > Config.memSize then s.returns .loadError
    else (s.store base image).returns .ok
  | .running => s.returns .invalidState
  | .waitingForKey _ => s.returns .invalidState
  | .halted _ => s.returns .invalidState

/-- `Initialize(a)`: start a session at `a`, or refuse and change nothing (R253, R206, R38). -/
def opInitialize (a : Word) (s : State) : State :=
  match s.mode with
  | .uninitialized =>
    { s with
      pc := a
      i := 0x0000#16
      stack := []
      dt := 0x00#8
      st := 0x00#8
      residue := 0
      mode := .running
      result := .ok }
  | .running => s.returns .invalidState
  | .waitingForKey _ => s.returns .invalidState
  | .halted _ => s.returns .invalidState

end Sys2Proof.Machine
end

