-- ==== Sys2Proof/Machine/Engine.lean ====
section
/-! DEFINITION. The `Step` operation (R92, R38), the six operations (R35), and which one is performed next (R36). -/

namespace Sys2Proof.Machine

/-- Execute exactly one instruction: fetch, decode, execute (R92, R208). -/
def stepRunning (s : State) : Answer :=
  match fetch s with
  | .error f => raise f s
  | .ok op =>
    match decodeWord op with
    | none => raise (.illegalInstruction op s.pc) s
    | some i => exec i s

/-- The result a `Step` returns, which is told by the mode it leaves (R38, R92, R209). -/
def stepResult : Mode → Result
  | .uninitialized => .invalidState
  | .running => .ok
  | .waitingForKey _ => .waiting
  | .halted f => .halted f

/-- Record the result of a `Step` in the state it answers. -/
def answerStep : Answer → Answer
  | .next t => .next (t.returns (stepResult t.mode))
  | .fault f => .fault f
  | .refused r => .refused r

/-- `Step(env)` (R92, R38): one instruction in mode `Running`; in the other modes nothing changes but the result. -/
def opStep (e : Env) (s : State) : Answer :=
  match s.mode with
  | .running => answerStep (stepRunning (s.withEnv e))
  | .uninitialized => .next (s.returns (stepResult s.mode))
  | .waitingForKey _ => .next (s.returns (stepResult s.mode))
  | .halted _ => .next (s.returns (stepResult s.mode))

/-- Perform one operation (R35). -/
def perform (op : Operation) (s : State) : Answer :=
  match op with
  | .reset => .next (opReset s)
  | .load image base => .next (opLoad image base s)
  | .initializeAt a => .next (opInitialize a s)
  | .step e => opStep e s
  | .tick elapsed => .next (opTick elapsed s)
  | .keyEvent k => .next (opKeyEvent k s)

/-- The environment of the n-th `Step` that no schedule gives one: free values (R9; log 3, log 4, log 5). -/
def freeEnv (n : Nat) : Env :=
  { rnd := Config.freeRnd n, keyDown := Config.freeKeyDown n, collided := Config.freeCollided n }

/-- The n-th operation that no schedule gives (R10, R36; log 24). -/
def unscheduledOperation (u : Unscheduled) (n : Nat) : Operation :=
  match u with
  | .steps => .step (freeEnv n)
  | .anything => Config.freeOperation n

/-- The next operation of the machine: the first of the schedule, or an unscheduled one (R36; log 1, log 24). -/
def nextOperation (s : State) : Answer :=
  match s.pending with
  | op :: rest => perform op (s.withPending rest)
  | [] => perform (unscheduledOperation s.unscheduled s.draws) s.drawn

/-- Where an instruction can be placed so that it is fetched: pc itself where both its bytes exist, else the program base
(R81; log 2). -/
def placeAddress (s : State) : Nat :=
  match accessFault s.pc.toNat 2 with
  | some _ => Config.programBase
  | none => s.pc.toNat

/-- A state whose next operation is the `Step` that fetches the word: it is stored where pc points, the engine is running,
nothing is scheduled before it and `Step`s follow the schedule (log 2). -/
def placeInstruction (op : Word) (s : State) : State :=
  let t := (s.store (placeAddress s) (wordBytes op)).jump (BitVec.ofNat 16 (placeAddress s))
  ((t.setMode .running).withPending []).withUnscheduled .steps

end Sys2Proof.Machine
end

