-- ==== Sys2Proof/Machine/Step.lean ====
section
/-! DEFINITION. One step of the machine: one operation on the state (R35, R36). -/

namespace Sys2Proof.Machine

/-- Perform the next operation. -/
def step (s : State) : Host.Outcome State Fault Refusal := nextOperation s

/-- `s` with the instruction whose bits are `w` stored where `step` fetches its next instruction (log 2). -/
def State.withFetchWord (s : State) (nbits w : Nat) : State := placeInstruction (tableWord nbits w) s

end Sys2Proof.Machine
end

