-- ==== Sys2Proof/Safety.lean ====
section
/-! DEFINITION. The terms the statements use: which fault a `Step` raises (R208), what holds of every state that operations
reach, when a program has ended. -/

namespace Sys2Proof.Machine

/-- The execute-phase fault an instruction raises in a state; no instruction has more than one (R208, R201, R203,
R204). -/
def executeFault (i : Instr) (s : State) : Option Fault :=
  match i with
  | .ret => if s.stack.length = 0 then some (.stackUnderflow s.pc) else none
  | .call _ => if s.stack.length ≥ 16 then some (.stackOverflow s.pc) else none
  | .drwVxVyN _ _ n => if 0 < n ∧ s.i.toNat + n > 4096 then some (.outOfBounds (max s.i.toNat 4096) s.pc) else none
  | .ldBVx _ => if s.i.toNat + 3 > 4096 then some (.outOfBounds (max s.i.toNat 4096) s.pc) else none
  | .ldMemVx x => if s.i.toNat + x.val ≥ 4096 then some (.outOfBounds (max s.i.toNat 4096) s.pc) else none
  | .ldVxMem x => if s.i.toNat + x.val ≥ 4096 then some (.outOfBounds (max s.i.toNat 4096) s.pc) else none
  | .cls | .jp _ | .seVxNn _ _ | .sneVxNn _ _ | .seVxVy _ _ | .ldVxNn _ _ | .addVxNn _ _ | .ldVxVy _ _ | .orVxVy _ _
  | .andVxVy _ _ | .xorVxVy _ _ | .addVxVy _ _ | .subVxVy _ _ | .shrVx _ _ | .subnVxVy _ _ | .shlVx _ _ | .sneVxVy _ _
  | .ldINnn _ | .jpV0Nnn _ | .rndVxNn _ _ | .skpVx _ | .sknpVx _ | .ldVxDt _ | .ldVxK _ | .ldDtVx _ | .ldStVx _
  | .addIVx _ | .ldFVx _ => none

/-- The word that pc points at (R58); it is fetched only where pc and pc + 1 exist. -/
def State.wordAtPc (s : State) : Word := wordOf (s.byteAt s.pc.toNat) (s.byteAt (s.pc.toNat + 1))

/-- The fault that a `Step` in mode `Running` raises in a state: fetch first, then decode, then execute (R208). -/
def stepFault (s : State) : Option Fault :=
  if s.pc.toNat ≥ 4095 then some (.outOfBounds (max s.pc.toNat 4096) s.pc)
  else match decodeWord s.wordAtPc with
    | none => some (.illegalInstruction s.wordAtPc s.pc)
    | some i => executeFault i s

/-- What the mode says of the rest of the state: before `Initialize` everything a program works on is as `Reset` left it
(R34, R38), a wait stands on the `Fx0A` that entered it (R29, R172), a halt on the instruction whose fault it records
(R30, R207). -/
def State.modeHolds (s : State) : Prop :=
  match s.mode with
  | .uninitialized => s.v = Vector.replicate 16 0 ∧ s.i = 0 ∧ s.pc = 0x200 ∧ s.stack = [] ∧ s.dt = 0 ∧ s.st = 0
  | .running => True
  | .waitingForKey x => s.pc.toNat < 4095 ∧ decodeWord s.wordAtPc = some (.ldVxK x)
  | .halted f => stepFault s = some f

/-- What every operation keeps: the bounds of R20 on depth and residue, return addresses that a call can have pushed
(R100), canonical memory, and the truth of the mode. -/
structure State.Inv (s : State) : Prop where
  depth_le : s.stack.length ≤ 16
  return_le : ∀ a ∈ s.stack, a.toNat ≤ 4096
  residue_lt : s.residue < s.params.timeUnitsPerSecond.val
  mem_wf : s.mem.wf s.params.fontRom = true
  mode_holds : s.modeHolds

/-- The engine is not halted by a fault: the safe states (R209). -/
def State.isSafe (s : State) : Bool :=
  match s.mode with
  | .halted _ => false
  | .uninitialized => true
  | .running => true
  | .waitingForKey _ => true

/-- "pc holds the address of a `1nnn` whose `nnn` equals that address": a program has ended, by the convention of R264
(the spec's decision D23, log 22). -/
def State.programEnded (s : State) : Prop :=
  s.mode = .running ∧ s.pc.toNat < 4095 ∧ decodeWord s.wordAtPc = some (.jp s.pc)

end Sys2Proof.Machine
end

