-- ==== Sys2Proof/Certificates/Slice0/Obligations.lean ====
section
/-! DEFINITION. The statements about the model. `t = { s with f := t.f, … }` says that no field but the named ones
differs between `s` and `t`: it is how a statement gives an instruction's frame. A statement whose docstring names a
decision of the spec (D<n>) or a log entry rests on that choice. -/

open Sys2Proof Sys2Proof.Machine

/-! ## Encoding -/

/-- R80, R82, R83, R86: the decoder reads every well-formed instruction back from its bytes, whatever bytes follow. -/
def Obligations.DecodeInvertsEncode : Prop :=
  ∀ (i : Instr) (rest : List Byte), i.wf = true → decode (wordBytes (encode i) ++ rest) = .ok (i, rest)

/-- R82, R85: a legal word has one meaning: the instruction decoded from it is well formed and encodes to it. -/
def Obligations.EncodeInvertsDecode : Prop :=
  ∀ (op : Word) (i : Instr), decodeWord op = some i → i.wf = true ∧ encode i = op

/-- R83, R85, R86: a word is illegal exactly when it matches none of the 34 rows of the opcode map, and no word
matches two of them. -/
def Obligations.OpcodeMapDecidesLegality : Prop :=
  opcodeMap.length = 34 ∧
  (∀ op : Word, decodeWord op = none ↔ ∀ row ∈ opcodeMap, matchesRow op row = false) ∧
  opcodeMap.Pairwise fun r q => ∀ op : Word, ¬ (matchesRow op r = true ∧ matchesRow op q = true)

/-- R87: the illegal words, class by class. -/
def Obligations.IllegalWordsByClass : Prop :=
  ∀ op : Word,
    let w := op.toNat
    decodeWord op = none ↔
      (w / 4096 = 0x0 ∧ w ≠ 0x00E0 ∧ w ≠ 0x00EE) ∨
      (w / 4096 = 0x5 ∧ w % 16 ≠ 0) ∨
      (w / 4096 = 0x8 ∧ w % 16 ∈ [0x8, 0x9, 0xA, 0xB, 0xC, 0xD, 0xF]) ∨
      (w / 4096 = 0x9 ∧ w % 16 ≠ 0) ∨
      (w / 4096 = 0xE ∧ w % 256 ∉ [0x9E, 0xA1]) ∨
      (w / 4096 = 0xF ∧ w % 256 ∉ [0x07, 0x0A, 0x15, 0x18, 0x1E, 0x29, 0x33, 0x55, 0x65])

/-- Words written out from the formats of R83 decode to the instructions they stand for; legal neighbours of illegal
words (95_test_vectors.md part 2.9) are among them. -/
def Obligations.WrittenOutWordsDecode : Prop :=
  decodeWord 0b0000000011100000#16 = some .cls ∧
  decodeWord 0b0001001000110100#16 = some (.jp 0x0234) ∧
  decodeWord 0b0011101001000010#16 = some (.seVxNn 0xA 0x42) ∧
  decodeWord 0b1000000100100100#16 = some (.addVxVy 1 2) ∧
  decodeWord 0b1000000100101110#16 = some (.shlVx 1 2) ∧
  decodeWord 0b1101000000010101#16 = some (.drwVxVyN 0 1 5) ∧
  decodeWord 0b1110001010100001#16 = some (.sknpVx 2) ∧
  decodeWord 0b1111001001100101#16 = some (.ldVxMem 2) ∧
  decodeWord 0b1001000000000001#16 = none ∧
  decodeWord 0b0000000000000000#16 = none

/-! ## Fetch and step -/

/-- R92, R36: where pc and pc + 1 exist and the word there decodes, the machine's step is that instruction's
execution, with the environment given to it and the `Step` taken off the schedule before, and the result of the `Step`
recorded after. With nothing scheduled and `Step`s to follow the schedule the environment is the free one of the
model's counter (log 1, log 3 to log 6, log 24). -/
def Obligations.StepRunsTheDecodedInstruction : Prop :=
  (∀ (s : State) (e : Env) (rest : List Operation) (i : Instr), s.mode = .running → s.pending = .step e :: rest →
    s.pc.toNat ≤ 4094 → decodeWord (wordOf (s.byteAt s.pc.toNat) (s.byteAt (s.pc.toNat + 1))) = some i →
    ∃ t, exec i { s with pending := rest, env := e } = .next t ∧
      step s = .next { t with result := stepResult t.mode }) ∧
  (∀ (s : State) (i : Instr), s.mode = .running → s.pending = [] → s.unscheduled = .steps →
    s.pc.toNat ≤ 4094 → decodeWord (wordOf (s.byteAt s.pc.toNat) (s.byteAt (s.pc.toNat + 1))) = some i →
    ∃ t, exec i { s with draws := s.draws + 1, env := freeEnv s.draws } = .next t ∧
      step s = .next { t with result := stepResult t.mode })

/-- R81: the fetch reads the two bytes at pc, the first as bits 15:8, and faults exactly where one of them does not
exist; that the record also holds pc is the spec's decision D21. -/
def Obligations.FetchReadsTwoBytesOrFaults : Prop :=
  ∀ s : State,
    (s.pc.toNat ≤ 4094 → ∃ op, fetch s = .ok op ∧ op.extractLsb' 8 8 = s.byteAt s.pc.toNat ∧
      op.extractLsb' 0 8 = s.byteAt (s.pc.toNat + 1)) ∧
    (s.pc.toNat = 4095 → fetch s = .error (.outOfBounds (s.pc.toNat + 1) s.pc)) ∧
    (4096 ≤ s.pc.toNat → fetch s = .error (.outOfBounds s.pc.toNat s.pc))

/-- R202, R207, R209: a `Step` on a word that matches no row halts with the word and its address, and changes nothing
else of the spec's state. That the halt is a next state whose mode holds the record is log 7; the environment given to
the `Step` (log 6) and the recorded result (log 8) are the model's own fields. -/
def Obligations.IllegalInstructionHalts : Prop :=
  ∀ (s : State) (e : Env) (op : Word), s.mode = .running → s.pc.toNat ≤ 4094 →
    op = wordOf (s.byteAt s.pc.toNat) (s.byteAt (s.pc.toNat + 1)) → decodeWord op = none →
    perform (.step e) s =
      .next { s with
        env := e
        mode := .halted (.illegalInstruction op s.pc)
        result := .halted (.illegalInstruction op s.pc) }

/-- R38 (row `Step`; the spec's decisions D3, D4, D5): outside `Running` a `Step` changes nothing and its result tells
the mode. -/
def Obligations.StepOutsideRunningChangesNothing : Prop :=
  ∀ (s : State) (e : Env),
    (s.mode = .uninitialized → perform (.step e) s = .next { s with result := .invalidState }) ∧
    (∀ x, s.mode = .waitingForKey x → perform (.step e) s = .next { s with result := .waiting }) ∧
    (∀ f, s.mode = .halted f → perform (.step e) s = .next { s with result := .halted f })

/-- R207, R208, R209 (the records: the spec's decision D21): a `Step` in mode `Running` halts exactly on the first
fault in the order fetch, decode, execute, with that fault's record, and then nothing but the mode has changed of the
spec's state. That the halt is a next state is log 7; the environment given to the `Step` (log 6) and the recorded result
(log 8) are the model's own fields. -/
def Obligations.FaultsArePreciseAndPrioritised : Prop :=
  ∀ (s : State) (e : Env), s.mode = .running →
    (∀ f, stepFault s = some f → perform (.step e) s = .next { s with env := e, mode := .halted f, result := .halted f }) ∧
    (stepFault s = none → ∃ t, perform (.step e) s = .next t ∧ ∀ f, t.mode ≠ .halted f)

/-- R200, R209, log 7, log 8: every step of the machine answers a next state, from every state. -/
def Obligations.StepNeverStops : Prop :=
  ∀ s : State, ∃ t, step s = .next t

/-- R10, R36, log 1, log 24: one operation a step. The schedule is served in its order; then come `Step`s with free
environments, or the free operations one after the other; an operation changes neither the schedule, nor what follows
it, nor the count of free operations, nor the parameters of the instance (log 11, log 12). -/
def Obligations.ScheduleIsServedInOrder : Prop :=
  (∀ (s : State) (op : Operation) (rest : List Operation), s.pending = op :: rest →
    step s = perform op { s with pending := rest }) ∧
  (∀ s : State, s.pending = [] → s.unscheduled = .steps →
    step s = perform (.step (freeEnv s.draws)) { s with draws := s.draws + 1 }) ∧
  (∀ s : State, s.pending = [] → s.unscheduled = .anything →
    step s = perform (Config.freeOperation s.draws) { s with draws := s.draws + 1 }) ∧
  (∀ (s t : State) (op : Operation), perform op s = .next t →
    t.pending = s.pending ∧ t.unscheduled = s.unscheduled ∧ t.draws = s.draws ∧ t.params = s.params)

/-- Log 2: with an instruction's word placed by the model, the very next step runs exactly that instruction. -/
def Obligations.PlacedInstructionIsStepped : Prop :=
  ∀ (s : State) (w : Nat) (i : Instr), decodeTableWord 16 w = some i →
    ∃ u t, u = { s.withFetchWord 16 w with draws := s.draws + 1, env := freeEnv s.draws } ∧
      exec i u = .next t ∧ step (s.withFetchWord 16 w) = .next { t with result := stepResult t.mode }

/-! ## Modes and invariants -/

/-- R40, which the spec marks as its own (the spec's decisions D2 to D7, D13; log 16): the mode transitions, complete:
each of the five happens, and no operation changes the mode otherwise. -/
def Obligations.ModeTransitionsAreComplete : Prop :=
  (∀ (op : Operation) (s t : State), perform op s = .next t → t.mode ≠ s.mode →
    (op = .reset ∧ t.mode = .uninitialized) ∨
    (∃ a, op = .initializeAt a ∧ s.mode = .uninitialized ∧ t.mode = .running) ∨
    (∃ e x, op = .step e ∧ s.mode = .running ∧ fetch s = .ok s.wordAtPc ∧ decodeWord s.wordAtPc = some (.ldVxK x) ∧
      t.mode = .waitingForKey x) ∨
    (∃ k xw, op = .keyEvent k ∧ s.mode = .waitingForKey xw ∧ t.mode = .running) ∨
    (∃ e f, op = .step e ∧ s.mode = .running ∧ stepFault s = some f ∧ t.mode = .halted f)) ∧
  (∀ s : State, ∃ t, perform .reset s = .next t ∧ t.mode = .uninitialized) ∧
  (∀ (s : State) (a : Word), s.mode = .uninitialized → ∃ t, perform (.initializeAt a) s = .next t ∧ t.mode = .running) ∧
  (∀ (s : State) (e : Env) (x : Reg), s.mode = .running → fetch s = .ok s.wordAtPc →
    decodeWord s.wordAtPc = some (.ldVxK x) → ∃ t, perform (.step e) s = .next t ∧ t.mode = .waitingForKey x) ∧
  (∀ (s : State) (k : Key) (xw : Reg), s.mode = .waitingForKey xw →
    ∃ t, perform (.keyEvent k) s = .next t ∧ t.mode = .running) ∧
  (∀ (s : State) (e : Env) (f : Fault), s.mode = .running → stepFault s = some f →
    ∃ t, perform (.step e) s = .next t ∧ t.mode = .halted f)

/-- Every step keeps the invariant, on every instance (R4): bounds of depth and residue (R20), return addresses (R100), canonical memory, and
the truth of what each mode says: nothing done before `Initialize` (R34, R38), a wait on its own `Fx0A` (R29, R172), a
halt on the instruction whose fault it records (R30, R207). It rests on the spec's decisions D2 to D7, D13 (what
each mode admits: log 16), D10, D14 (what `Reset` leaves: log 9) and D9 (the residue: log 9); the canonical form of memory
is the model's (log 10). -/
def Obligations.StepKeepsTheInvariant : Prop :=
  ∀ s t : State, s.Inv → step s = .next t → t.Inv

/-- The invariant holds after `Reset` (R34, R250) of every instance (R4), whatever is scheduled. The values of V, of memory outside the font, of
pc and of the residue are the spec's decisions D10, D11, D14, D9 (log 9, log 10); the canonical form of memory and the
schedule are the model's (log 10, log 1). -/
def Obligations.ResetMeetsTheInvariant : Prop :=
  ∀ (p : Params) (ops : List Operation), State.Inv { State.resetWith p with pending := ops }

/-- R209, R210, R30 (the spec's decisions D4, D6, D7, D13): nothing but `Reset` leaves `Halted`: the other operations
change at most the timers, the residue and the result, so the fault record stays. -/
def Obligations.OnlyResetLeavesHalted : Prop :=
  ∀ (op : Operation) (s : State) (f : Fault), s.mode = .halted f → op ≠ .reset →
    ∃ t, perform op s = .next t ∧ t = { s with dt := t.dt, st := t.st, residue := t.residue, result := t.result }

/-- R229 (the spec's decisions D3, D6, D13): what wakes the engine from `WaitingForKey` is a `KeyEvent`; short of that
and of `Reset`, everything but the timers, the residue and the result survives the wait. -/
def Obligations.OnlyAKeyEventWakesTheEngine : Prop :=
  ∀ (op : Operation) (s : State) (xw : Reg), s.mode = .waitingForKey xw → op ≠ .reset → (∀ k, op ≠ .keyEvent k) →
    ∃ t, perform op s = .next t ∧ t = { s with dt := t.dt, st := t.st, residue := t.residue, result := t.result }

/-! ## Host operations -/

/-- R250, R34, R251, R52: what `Reset` leaves, in every mode and for every `FONT_ROM` (the spec's decision D12: no glyph
byte is named), and that the first state of every instance is such a state. The values of V, of memory outside the font,
of pc and of the residue are the spec's decisions D10, D11, D14, D9; that the output traces stay is the model's choice
(log 13), that the parameters stand in the state is too (log 11, log 12); see log 9, log 10. -/
def Obligations.ResetPutsEveryElementAtItsResetValue : Prop :=
  ∀ s : State, ∃ t, perform .reset s = .next t ∧
    (∀ r, t.readV r = 0) ∧ t.i = 0 ∧ t.pc = 0x0200 ∧ t.stack = [] ∧ t.dt = 0 ∧ t.st = 0 ∧ t.residue = 0 ∧
    t.mode = .uninitialized ∧ t.result = .ok ∧
    (∀ (a : Nat) (h : a < 80), t.byteAt a = s.params.fontRom[a]'h) ∧ (∀ a, 80 ≤ a → a < 4096 → t.byteAt a = 0) ∧
    t.display = s.display ∧ t.keyQueries = s.keyQueries ∧ t.params = s.params ∧
    State.resetWith s.params = { t with
      display := [], keyQueries := [], env := State.reset.env, draws := 0, pending := [], unscheduled := .steps }

/-- R252, R205, R206, R38 (the spec's decision D13): `Load` copies an image that fits, byte for byte, and changes
nothing else; one that does not fit, and one in a wrong mode, changes nothing but the result. -/
def Obligations.LoadCopiesTheImageOrRefuses : Prop :=
  ∀ (s : State) (image : List Byte) (base : Nat),
    (s.mode = .uninitialized → base + image.length ≤ 4096 →
      ∃ t, perform (.load image base) s = .next t ∧ t = { s with mem := t.mem, result := .ok } ∧
        (∀ (k : Nat) (h : k < image.length), t.byteAt (base + k) = image[k]) ∧
        (∀ a, a < base ∨ base + image.length ≤ a → t.byteAt a = s.byteAt a)) ∧
    (s.mode = .uninitialized → base + image.length > 4096 →
      perform (.load image base) s = .next { s with result := .loadError }) ∧
    (s.mode ≠ .uninitialized → perform (.load image base) s = .next { s with result := .invalidState })

/-- R253, R206, R38 (the spec's decisions D9, D13, D27): `Initialize(a)` starts a session at `a`; V and memory are
untouched; in any other mode it changes nothing but the result. -/
def Obligations.InitializeStartsASession : Prop :=
  ∀ (s : State) (a : Word),
    (s.mode = .uninitialized → perform (.initializeAt a) s =
      .next { s with
        pc := a, i := 0, stack := [], dt := 0, st := 0, residue := 0, mode := .running, result := .ok }) ∧
    (s.mode ≠ .uninitialized → perform (.initializeAt a) s = .next { s with result := .invalidState })

/-- R254: the boot order: two steps on a schedule that starts with `Load` and `Initialize` bring any image that fits
to running at its base, on every instance (R4; log 2). -/
def Obligations.BootOrderStartsTheImage : Prop :=
  ∀ (p : Params) (image : List Byte) (rest : List Operation), image.length ≤ 3584 →
    ∃ u t, step { State.resetWith p with pending := .load image 0x200 :: .initializeAt 0x200 :: rest } = .next u ∧
      step u = .next t ∧
      t.mode = .running ∧ t.pc = 0x200 ∧ t.i = 0 ∧ t.stack = [] ∧ t.dt = 0 ∧ t.st = 0 ∧ t.pending = rest ∧
      ∀ (k : Nat) (h : k < image.length), t.byteAt (0x200 + k) = image[k]

/-- R216, R217, R219 (the spec's decisions D6, D8): a `Tick` in any mode, at any resolution `TIME_UNITS_PER_SECOND`,
turns the debt into whole 60 Hz periods, takes as many from each timer, never below 0, keeps the remainder, and changes
nothing else (log 12). -/
def Obligations.TickAgesBothTimers : Prop :=
  ∀ (s : State) (elapsed : Nat), ∃ t, perform (.tick elapsed) s = .next t ∧
    t = { s with dt := t.dt, st := t.st, residue := t.residue, result := .ok } ∧
    t.dt.toNat = s.dt.toNat - min s.dt.toNat ((s.residue + 60 * elapsed) / s.params.timeUnitsPerSecond.val) ∧
    t.st.toNat = s.st.toNat - min s.st.toNat ((s.residue + 60 * elapsed) / s.params.timeUnitsPerSecond.val) ∧
    t.residue = (s.residue + 60 * elapsed) % s.params.timeUnitsPerSecond.val

/-- R218 (a derivation the spec marks as its own): two `Tick`s leave what one with the sum leaves, also with an
instruction between them that sets no timer; `Tick(0)` changes nothing. For any resolution (R4; log 12). -/
def Obligations.TickIsAdditive : Prop :=
  (∀ (s : State) (a b : Nat), opTick b (opTick a s) = opTick (a + b) s) ∧
  (∀ (s t : State) (i : Instr) (a b : Nat), (∀ x, i ≠ .ldDtVx x) → (∀ x, i ≠ .ldStVx x) →
    exec i (opTick a s) = .next t →
    (opTick b t).dt = (opTick (a + b) s).dt ∧ (opTick b t).st = (opTick (a + b) s).st ∧
    (opTick b t).residue = (opTick (a + b) s).residue) ∧
  (∀ s : State, s.residue < s.params.timeUnitsPerSecond.val → opTick 0 s = { s with result := .ok })

/-- R173, R38 (the spec's decision D7): a `KeyEvent` in a wait writes the key, adds 2 to pc once and resumes; in any
other mode it is dropped. -/
def Obligations.KeyEventEndsTheWait : Prop :=
  ∀ (s : State) (k : Key),
    (∀ xw, s.mode = .waitingForKey xw → ∃ t, perform (.keyEvent k) s = .next t ∧
      t = { s with v := t.v, pc := s.pc + 2, mode := .running, result := .ok } ∧
      (t.readV xw).toNat = k.val ∧ ∀ r, r ≠ xw → t.readV r = s.readV r) ∧
    ((∀ xw, s.mode ≠ .waitingForKey xw) → perform (.keyEvent k) s = .next { s with result := .ok })

/-! ## Rules over all instructions -/

/-- R20 (column "Written by"), R26, R27, R37: which instructions change each element other than V0 to VF and pc, which
`PcBehaviourOfEveryInstruction` and each instruction's own statement treat; no instruction changes the residue. The traces
of Display commands and presented keys are the model's form of the outputs of R37 (log 13). The result, the environment,
the counter, the schedule, what follows it and the parameters are the model's own fields (log 8, log 6, log 1, log 24,
log 11, log 12), and that no instruction changes them is the model's. -/
def Obligations.ElementsBesideVAndPcHaveTheirWriters : Prop :=
  ∀ (i : Instr) (s t : State), exec i s = .next t →
    (t.i ≠ s.i → (∃ nnn, i = .ldINnn nnn) ∨ (∃ x, i = .addIVx x) ∨ (∃ x, i = .ldFVx x)) ∧
    (t.stack ≠ s.stack → i = .ret ∨ ∃ nnn, i = .call nnn) ∧
    (t.dt ≠ s.dt → ∃ x, i = .ldDtVx x) ∧
    (t.st ≠ s.st → ∃ x, i = .ldStVx x) ∧
    (t.mem ≠ s.mem → (∃ x, i = .ldBVx x) ∨ (∃ x, i = .ldMemVx x)) ∧
    (t.display ≠ s.display → i = .cls ∨ ∃ x y n, i = .drwVxVyN x y n) ∧
    (t.keyQueries ≠ s.keyQueries → (∃ x, i = .skpVx x) ∨ (∃ x, i = .sknpVx x)) ∧
    (t.mode ≠ s.mode → (∃ x, i = .ldVxK x) ∨ (∃ f, executeFault i s = some f)) ∧
    t.residue = s.residue ∧ t.result = s.result ∧ t.env = s.env ∧ t.draws = s.draws ∧
    t.pending = s.pending ∧ t.unscheduled = s.unscheduled ∧ t.params = s.params

/-- R22: the instructions that write VF as a flag are exactly seven, and each writes 0 or 1 when it completes; any
other instruction that changes VF names it as its destination. -/
def Obligations.SevenInstructionsWriteTheFlag : Prop :=
  (∀ (s t : State) (x y : Reg) (n : Nat) (i : Instr),
    i ∈ [.addVxVy x y, .subVxVy x y, .shrVx x y, .subnVxVy x y, .shlVx x y, .drwVxVyN x y n, .addIVx x] →
    executeFault i s = none → exec i s = .next t → t.readV regVF = 0 ∨ t.readV regVF = 1) ∧
  (∀ (s t : State) (i : Instr), exec i s = .next t → t.readV regVF ≠ s.readV regVF →
    (∃ x y n, i ∈ [.addVxVy x y, .subVxVy x y, .shrVx x y, .subnVxVy x y, .shlVx x y, .drwVxVyN x y n, .addIVx x]) ∨
    (∃ y nn, i ∈ [.ldVxNn regVF nn, .addVxNn regVF nn, .rndVxNn regVF nn, .ldVxVy regVF y, .orVxVy regVF y,
      .andVxVy regVF y, .xorVxVy regVF y, .ldVxDt regVF, .ldVxMem regVF]))

/-- R93, with the targets of R100 to R103 and the conditions of R110 to R113, R170, R171, R173 (the spec's decisions
D16 for the unreduced target of `Bnnn`, log 17, and D18 for the whole-byte key index, log 4): what each instruction
that raises no fault does to pc, one of four behaviours; the `KeyEvent` that ends a wait adds the 2 of `Fx0A`. A skip
asks nothing of the word it jumps over. -/
def Obligations.PcBehaviourOfEveryInstruction : Prop :=
  (∀ (i : Instr) (s t : State), executeFault i s = none → exec i s = .next t →
    match i with
    | .ret => s.stack.getLast? = some t.pc
    | .jp nnn => t.pc = nnn
    | .call nnn => t.pc = nnn
    | .jpV0Nnn nnn => t.pc = nnn + (s.readV 0).setWidth 16
    | .ldVxK _ => t.pc = s.pc
    | .seVxNn x nn => t.pc = if s.readV x = nn then s.pc + 4 else s.pc + 2
    | .sneVxNn x nn => t.pc = if s.readV x ≠ nn then s.pc + 4 else s.pc + 2
    | .seVxVy x y => t.pc = if s.readV x = s.readV y then s.pc + 4 else s.pc + 2
    | .sneVxVy x y => t.pc = if s.readV x ≠ s.readV y then s.pc + 4 else s.pc + 2
    | .skpVx x => t.pc = if s.env.keyDown.getLsbD (s.readV x).toNat = true then s.pc + 4 else s.pc + 2
    | .sknpVx x => t.pc = if s.env.keyDown.getLsbD (s.readV x).toNat = false then s.pc + 4 else s.pc + 2
    | .cls | .ldVxNn _ _ | .addVxNn _ _ | .ldVxVy _ _ | .orVxVy _ _ | .andVxVy _ _ | .xorVxVy _ _ | .addVxVy _ _
    | .subVxVy _ _ | .shrVx _ _ | .subnVxVy _ _ | .shlVx _ _ | .ldINnn _ | .rndVxNn _ _ | .drwVxVyN _ _ _ | .ldVxDt _
    | .ldDtVx _ | .ldStVx _ | .addIVx _ | .ldFVx _ | .ldBVx _ | .ldMemVx _ | .ldVxMem _ => t.pc = s.pc + 2) ∧
  (∀ (s : State) (k : Key) (xw : Reg), s.mode = .waitingForKey xw →
    ∃ t, perform (.keyEvent k) s = .next t ∧ t.pc = s.pc + 2)

/-- R104: a control transfer, taken or not, never changes VF or any other register, I, the timers or memory. -/
def Obligations.ControlTransfersLeaveDataAlone : Prop :=
  ∀ (i : Instr) (s t : State) (x y : Reg) (nn : Byte) (nnn : Word),
    i ∈ [.ret, .jp nnn, .call nnn, .jpV0Nnn nnn, .seVxNn x nn, .sneVxNn x nn, .seVxVy x y, .sneVxVy x y, .skpVx x,
      .sknpVx x] →
    exec i s = .next t →
    t = { s with pc := t.pc, stack := t.stack, mode := t.mode, keyQueries := t.keyQueries } ∧
    ((∀ f, t.mode ≠ .halted f) → t.mode = s.mode)

/-- R9, R122, R26 (the spec's decisions D18, D19, D20): the random byte reaches `Cxnn` only, the keypad's answers
reach `Ex9E` and `ExA1` only, the display's answer reaches `Dxyn` only, and no instruction reads ST: changing the
input changes nothing but that input in what the other instructions answer. -/
def Obligations.EnvironmentReachesOnlyItsInstruction : Prop :=
  ∀ (i : Instr) (s t : State), exec i s = .next t →
    (∀ b : Byte, (∀ x nn, i ≠ .rndVxNn x nn) →
      exec i { s with env := { s.env with rnd := b } } = .next { t with env := { s.env with rnd := b } }) ∧
    (∀ d : BitVec 256, (∀ x, i ≠ .skpVx x) → (∀ x, i ≠ .sknpVx x) →
      exec i { s with env := { s.env with keyDown := d } } = .next { t with env := { s.env with keyDown := d } }) ∧
    (∀ c : Bool, (∀ x y n, i ≠ .drwVxVyN x y n) →
      exec i { s with env := { s.env with collided := c } } = .next { t with env := { s.env with collided := c } }) ∧
    (∀ b : Byte, (∀ x, i ≠ .ldStVx x) → exec i { s with st := b } = .next { t with st := b })

/-! ## Memory -/

/-- R57: a read gives the byte last written to its address, a write leaves every other address alone, whatever the font. -/
def Obligations.MemoryIsPlainStorage : Prop :=
  ∀ (rom : FontRom) (m : Memory) (a : Nat) (b : Byte),
    (m.write rom a b).read rom a = b ∧ ∀ c, c ≠ a → (m.write rom a b).read rom c = m.read rom c

/-- Log 10: memories in canonical form that read the same at all 4096 addresses are the same data, and writes inside
the capacity keep the form. -/
def Obligations.CanonicalMemoryIsItsContents : Prop :=
  (∀ (rom : FontRom) (m m' : Memory), m.wf rom = true → m'.wf rom = true →
    (∀ a < 4096, m.read rom a = m'.read rom a) → m = m') ∧
  (∀ (rom : FontRom) (m : Memory) (a : Nat) (b : Byte), m.wf rom = true → a < 4096 → (m.write rom a b).wf rom = true)

/-- R58, R62: a byte written at an address is the high byte of the instruction there and the low byte of the
instruction one below, at once: after an `Fx55` that stores over the following instruction the next fetch sees what
was stored. -/
def Obligations.StoresAreSeenByTheNextFetch : Prop :=
  (∀ (rom : FontRom) (m : Memory) (a : Nat) (b : Byte),
    (m.write rom a b).readWord rom a = wordOf b (m.read rom (a + 1)) ∧
    (0 < a → (m.write rom a b).readWord rom (a - 1) = wordOf (m.read rom (a - 1)) b)) ∧
  (∀ (s t : State) (x : Reg), 1 ≤ x.val → s.pc.toNat ≤ 4092 → s.i = s.pc + 2 → s.i.toNat + x.val < 4096 →
    exec (.ldMemVx x) s = .next t → fetch t = .ok (wordOf (s.readV 0) (s.readV 1)))

/-! ## Control transfer -/

/-- R100: `00EE` pops the last pushed address into pc as it is; an empty stack halts with nothing changed (the record:
the spec's decision D21). -/
def Obligations.ReturnPopsTheLastAddress : Prop :=
  decodeWord 0x00EE#16 = some .ret ∧
  (∀ (s : State) (rest : List Word) (a : Word), s.stack = rest ++ [a] →
    exec .ret s = .next { s with stack := rest, pc := a }) ∧
  (∀ s : State, s.stack = [] → exec .ret s = .next { s with mode := .halted (.stackUnderflow s.pc) })

/-- R101: `1nnn` jumps, odd targets and 0xFFF included; the fetch at 0xFFF faults; a jump to its own address leaves
the state unchanged. -/
def Obligations.JumpSetsPc : Prop :=
  (∀ nnn : BitVec 12, decodeWord (0x1#4 ++ nnn) = some (.jp (nnn.setWidth 16))) ∧
  (∀ (s : State) (nnn : Word), exec (.jp nnn) s = .next { s with pc := nnn }) ∧
  (∀ s t : State, exec (.jp 0x0FFF) s = .next t → ∃ pc, fetch t = .error (.outOfBounds 0x1000 pc)) ∧
  (∀ s : State, exec (.jp s.pc) s = .next s)

/-- R102, R203 (the record: the spec's decision D21, log 21): `2nnn` pushes pc + 2 and jumps while fewer than 16
addresses are stacked; the seventeenth nested call halts with nothing changed. -/
def Obligations.CallPushesTheReturnAddress : Prop :=
  (∀ nnn : BitVec 12, decodeWord (0x2#4 ++ nnn) = some (.call (nnn.setWidth 16))) ∧
  (∀ (s : State) (nnn : Word), s.stack.length < 16 →
    exec (.call nnn) s = .next { s with stack := s.stack ++ [s.pc + 2], pc := nnn }) ∧
  (∀ (s : State) (nnn : Word), s.stack.length = 16 →
    exec (.call nnn) s = .next { s with mode := .halted (.stackOverflow s.pc) })

/-- 95_test_vectors.md S2 (R100, R102): a call, anything that leaves the stack alone, and a return lead back to the
address after the call with the stack as it was. -/
def Obligations.ReturnUndoesCall : Prop :=
  ∀ (s t u : State) (nnn : Word), s.stack.length < 16 → exec (.call nnn) s = .next t → u.stack = t.stack →
    exec .ret u = .next { u with stack := s.stack, pc := s.pc + 2 }

/-- R103 (the spec's decision D16): `Bnnn` adds V0, whatever `op[11:8]` is, with no reduction. -/
def Obligations.OffsetJumpAddsV0 : Prop :=
  (∀ nnn : BitVec 12, decodeWord (0xB#4 ++ nnn) = some (.jpV0Nnn (nnn.setWidth 16))) ∧
  (∀ (s : State) (nnn : BitVec 12), ∃ t, exec (.jpV0Nnn (nnn.setWidth 16)) s = .next t ∧ t = { s with pc := t.pc } ∧
    t.pc.toNat = nnn.toNat + (s.readV 0).toNat)

/-! ## Skips -/

/-- R110, R111: the skips on an immediate; nothing but pc changes. -/
def Obligations.SkipsOnImmediate : Prop :=
  (∀ (x : Reg) (nn : Byte), decodeWord (0x3#4 ++ (regField x ++ nn)) = some (.seVxNn x nn) ∧
    decodeWord (0x4#4 ++ (regField x ++ nn)) = some (.sneVxNn x nn)) ∧
  (∀ (x : Reg) (nn : Byte) (s : State),
    (s.readV x = nn → exec (.seVxNn x nn) s = .next { s with pc := s.pc + 4 }) ∧
    (s.readV x ≠ nn → exec (.seVxNn x nn) s = .next { s with pc := s.pc + 2 }) ∧
    (s.readV x ≠ nn → exec (.sneVxNn x nn) s = .next { s with pc := s.pc + 4 }) ∧
    (s.readV x = nn → exec (.sneVxNn x nn) s = .next { s with pc := s.pc + 2 }))

/-- R112, R113: the skips on two registers; nothing but pc changes. -/
def Obligations.SkipsOnRegisters : Prop :=
  (∀ x y : Reg, decodeWord (0x5#4 ++ (regField x ++ (regField y ++ 0x0#4))) = some (.seVxVy x y) ∧
    decodeWord (0x9#4 ++ (regField x ++ (regField y ++ 0x0#4))) = some (.sneVxVy x y)) ∧
  (∀ (x y : Reg) (s : State),
    (s.readV x = s.readV y → exec (.seVxVy x y) s = .next { s with pc := s.pc + 4 }) ∧
    (s.readV x ≠ s.readV y → exec (.seVxVy x y) s = .next { s with pc := s.pc + 2 }) ∧
    (s.readV x ≠ s.readV y → exec (.sneVxVy x y) s = .next { s with pc := s.pc + 4 }) ∧
    (s.readV x = s.readV y → exec (.sneVxVy x y) s = .next { s with pc := s.pc + 2 }))

/-! ## Immediate operations -/

/-- R120, R121: load and add an immediate; the addition wraps and writes no flag: VF changes only as the destination.
-/
def Obligations.ImmediateLoadAndAdd : Prop :=
  (∀ (x : Reg) (nn : Byte), decodeWord (0x6#4 ++ (regField x ++ nn)) = some (.ldVxNn x nn) ∧
    decodeWord (0x7#4 ++ (regField x ++ nn)) = some (.addVxNn x nn)) ∧
  (∀ (x : Reg) (nn : Byte) (s : State), ∃ t, exec (.ldVxNn x nn) s = .next t ∧
    t = { s with v := t.v, pc := s.pc + 2 } ∧ t.readV x = nn ∧ ∀ r, r ≠ x → t.readV r = s.readV r) ∧
  (∀ (x : Reg) (nn : Byte) (s : State), ∃ t, exec (.addVxNn x nn) s = .next t ∧
    t = { s with v := t.v, pc := s.pc + 2 } ∧ (t.readV x).toNat = ((s.readV x).toNat + nn.toNat) % 256 ∧
    ∀ r, r ≠ x → t.readV r = s.readV r)

/-- R122 (the spec's decision D19): `Cxnn` gives the random byte masked by `nn`, for every random byte: no 1 bit where
`nn` has a 0 bit, so at most `nn`. -/
def Obligations.RandomByteIsMasked : Prop :=
  (∀ (x : Reg) (nn : Byte), decodeWord (0xC#4 ++ (regField x ++ nn)) = some (.rndVxNn x nn)) ∧
  (∀ (x : Reg) (nn : Byte) (s : State), ∃ t, exec (.rndVxNn x nn) s = .next t ∧
    t = { s with v := t.v, pc := s.pc + 2 } ∧
    (∀ k < 8, (t.readV x).getLsbD k = (s.env.rnd.getLsbD k && nn.getLsbD k)) ∧ (t.readV x).toNat ≤ nn.toNat ∧
    ∀ r, r ≠ x → t.readV r = s.readV r)

/-! ## ALU -/

/-- R130, R131, R132, R133: copy, OR, AND, exclusive OR, bit by bit; VF is not written as a flag. -/
def Obligations.CopyAndLogic : Prop :=
  (∀ x y : Reg, decodeWord (0x8#4 ++ (regField x ++ (regField y ++ 0x0#4))) = some (.ldVxVy x y) ∧
    decodeWord (0x8#4 ++ (regField x ++ (regField y ++ 0x1#4))) = some (.orVxVy x y) ∧
    decodeWord (0x8#4 ++ (regField x ++ (regField y ++ 0x2#4))) = some (.andVxVy x y) ∧
    decodeWord (0x8#4 ++ (regField x ++ (regField y ++ 0x3#4))) = some (.xorVxVy x y)) ∧
  (∀ (x y : Reg) (s : State),
    (∃ t, exec (.ldVxVy x y) s = .next t ∧ t = { s with v := t.v, pc := s.pc + 2 } ∧ t.readV x = s.readV y ∧
      ∀ r, r ≠ x → t.readV r = s.readV r) ∧
    (∃ t, exec (.orVxVy x y) s = .next t ∧ t = { s with v := t.v, pc := s.pc + 2 } ∧
      (∀ k < 8, (t.readV x).getLsbD k = ((s.readV x).getLsbD k || (s.readV y).getLsbD k)) ∧
      ∀ r, r ≠ x → t.readV r = s.readV r) ∧
    (∃ t, exec (.andVxVy x y) s = .next t ∧ t = { s with v := t.v, pc := s.pc + 2 } ∧
      (∀ k < 8, (t.readV x).getLsbD k = ((s.readV x).getLsbD k && (s.readV y).getLsbD k)) ∧
      ∀ r, r ≠ x → t.readV r = s.readV r) ∧
    (∃ t, exec (.xorVxVy x y) s = .next t ∧ t = { s with v := t.v, pc := s.pc + 2 } ∧
      (∀ k < 8, (t.readV x).getLsbD k = ((s.readV x).getLsbD k ^^ (s.readV y).getLsbD k)) ∧
      ∀ r, r ≠ x → t.readV r = s.readV r))

/-- R134, R139: `8xy4` adds modulo 256 and leaves the carry in VF, the flag winning where VF is the destination. -/
def Obligations.AddLeavesTheCarry : Prop :=
  (∀ x y : Reg, decodeWord (0x8#4 ++ (regField x ++ (regField y ++ 0x4#4))) = some (.addVxVy x y)) ∧
  (∀ (x y : Reg) (s : State), ∃ t, exec (.addVxVy x y) s = .next t ∧ t = { s with v := t.v, pc := s.pc + 2 } ∧
    (t.readV regVF).toNat = (if (s.readV x).toNat + (s.readV y).toNat > 255 then 1 else 0) ∧
    (x ≠ regVF → (t.readV x).toNat = ((s.readV x).toNat + (s.readV y).toNat) % 256) ∧
    ∀ r, r ≠ x → r ≠ regVF → t.readV r = s.readV r)

/-- R135, R137, R139: `8xy5` and `8xy7` subtract modulo 256 and leave "no borrow" in VF, the flag winning where VF is
the destination. -/
def Obligations.SubtractLeavesNoBorrow : Prop :=
  (∀ x y : Reg, decodeWord (0x8#4 ++ (regField x ++ (regField y ++ 0x5#4))) = some (.subVxVy x y) ∧
    decodeWord (0x8#4 ++ (regField x ++ (regField y ++ 0x7#4))) = some (.subnVxVy x y)) ∧
  (∀ (x y : Reg) (s : State), ∃ t, exec (.subVxVy x y) s = .next t ∧ t = { s with v := t.v, pc := s.pc + 2 } ∧
    (t.readV regVF).toNat = (if (s.readV y).toNat ≤ (s.readV x).toNat then 1 else 0) ∧
    (x ≠ regVF → (t.readV x).toNat = ((s.readV x).toNat + 256 - (s.readV y).toNat) % 256) ∧
    ∀ r, r ≠ x → r ≠ regVF → t.readV r = s.readV r) ∧
  (∀ (x y : Reg) (s : State), ∃ t, exec (.subnVxVy x y) s = .next t ∧ t = { s with v := t.v, pc := s.pc + 2 } ∧
    (t.readV regVF).toNat = (if (s.readV x).toNat ≤ (s.readV y).toNat then 1 else 0) ∧
    (x ≠ regVF → (t.readV x).toNat = ((s.readV y).toNat + 256 - (s.readV x).toNat) % 256) ∧
    ∀ r, r ≠ x → r ≠ regVF → t.readV r = s.readV r)

/-- R136, R138, R139: `8xy6` and `8xyE` shift Vx by one and leave the bit shifted out in VF; Vy is not read, so every
`y` gives the same answer; the flag wins where VF is the destination. -/
def Obligations.ShiftsLeaveTheBitShiftedOut : Prop :=
  (∀ x y : Reg, decodeWord (0x8#4 ++ (regField x ++ (regField y ++ 0x6#4))) = some (.shrVx x y) ∧
    decodeWord (0x8#4 ++ (regField x ++ (regField y ++ 0xE#4))) = some (.shlVx x y)) ∧
  (∀ (x y : Reg) (s : State), ∃ t, exec (.shrVx x y) s = .next t ∧ t = { s with v := t.v, pc := s.pc + 2 } ∧
    (t.readV regVF).toNat = (s.readV x).toNat % 2 ∧
    (x ≠ regVF → (t.readV x).toNat = (s.readV x).toNat / 2) ∧
    (∀ r, r ≠ x → r ≠ regVF → t.readV r = s.readV r) ∧ ∀ y', exec (.shrVx x y') s = .next t) ∧
  (∀ (x y : Reg) (s : State), ∃ t, exec (.shlVx x y) s = .next t ∧ t = { s with v := t.v, pc := s.pc + 2 } ∧
    (t.readV regVF).toNat = (s.readV x).toNat / 128 ∧
    (x ≠ regVF → (t.readV x).toNat = (s.readV x).toNat * 2 % 256) ∧
    (∀ r, r ≠ x → r ≠ regVF → t.readV r = s.readV r) ∧ ∀ y', exec (.shlVx x y') s = .next t)

/-! ## Index register and memory transfer -/

/-- R150: `Annn` loads I; no memory is accessed. -/
def Obligations.LoadIndex : Prop :=
  (∀ nnn : BitVec 12, decodeWord (0xA#4 ++ nnn) = some (.ldINnn (nnn.setWidth 16))) ∧
  (∀ (s : State) (nnn : Word), exec (.ldINnn nnn) s = .next { s with i := nnn, pc := s.pc + 2 })

/-- R151, R139 (the spec's decision D15 for the wrap): `Fx1E` adds Vx to I modulo 65536; VF tells whether the sum of
the old I and the old Vx is above 0xFFF, also where Vx is VF. -/
def Obligations.AddIndexFlagsTheOldSum : Prop :=
  (∀ x : Reg, decodeWord (0xF#4 ++ (regField x ++ 0x1E#8)) = some (.addIVx x)) ∧
  (∀ (x : Reg) (s : State), ∃ t, exec (.addIVx x) s = .next t ∧ t = { s with v := t.v, i := t.i, pc := s.pc + 2 } ∧
    t.i.toNat = (s.i.toNat + (s.readV x).toNat) % 65536 ∧
    (t.readV regVF).toNat = (if s.i.toNat + (s.readV x).toNat > 0x0FFF then 1 else 0) ∧
    ∀ r, r ≠ regVF → t.readV r = s.readV r)

/-- R152 (the spec's decision D15): `Fx29` gives five times the whole byte, which for a digit is the address of its
glyph. -/
def Obligations.FontAddressIsFiveTimesVx : Prop :=
  (∀ x : Reg, decodeWord (0xF#4 ++ (regField x ++ 0x29#8)) = some (.ldFVx x)) ∧
  (∀ (x : Reg) (s : State), ∃ t, exec (.ldFVx x) s = .next t ∧ t = { s with i := t.i, pc := s.pc + 2 } ∧
    t.i.toNat = 5 * (s.readV x).toNat)

/-- R153: `Fx33` stores the hundreds, tens and ones of Vx at I, I + 1, I + 2; every other byte reads as before; where
I + 2 is 4096 or more it halts with nothing written (the record: the spec's decision D21). -/
def Obligations.BcdStoresThreeDigits : Prop :=
  (∀ x : Reg, decodeWord (0xF#4 ++ (regField x ++ 0x33#8)) = some (.ldBVx x)) ∧
  (∀ (x : Reg) (s : State), s.i.toNat + 2 < 4096 →
    ∃ t, exec (.ldBVx x) s = .next t ∧ t = { s with mem := t.mem, pc := s.pc + 2 } ∧
      (t.byteAt s.i.toNat).toNat = (s.readV x).toNat / 100 ∧
      (t.byteAt (s.i.toNat + 1)).toNat = (s.readV x).toNat / 10 % 10 ∧
      (t.byteAt (s.i.toNat + 2)).toNat = (s.readV x).toNat % 10 ∧
      ∀ a, a < s.i.toNat ∨ s.i.toNat + 3 ≤ a → t.byteAt a = s.byteAt a) ∧
  (∀ (x : Reg) (s : State), 4096 ≤ s.i.toNat + 2 →
    exec (.ldBVx x) s = .next { s with mode := .halted (.outOfBounds (max s.i.toNat 4096) s.pc) })

/-- R154: `Fx55` stores V0 to Vx at I to I + x; every other byte reads as before and I is unchanged; where I + x is
4096 or more it halts with nothing written (the record: the spec's decision D21). -/
def Obligations.StoreRegistersUpToVx : Prop :=
  (∀ x : Reg, decodeWord (0xF#4 ++ (regField x ++ 0x55#8)) = some (.ldMemVx x)) ∧
  (∀ (x : Reg) (s : State), s.i.toNat + x.val < 4096 →
    ∃ t, exec (.ldMemVx x) s = .next t ∧ t = { s with mem := t.mem, pc := s.pc + 2 } ∧
      (∀ k : Reg, k ≤ x → t.byteAt (s.i.toNat + k.val) = s.readV k) ∧
      ∀ a, a < s.i.toNat ∨ s.i.toNat + x.val < a → t.byteAt a = s.byteAt a) ∧
  (∀ (x : Reg) (s : State), 4096 ≤ s.i.toNat + x.val →
    exec (.ldMemVx x) s = .next { s with mode := .halted (.outOfBounds (max s.i.toNat 4096) s.pc) })

/-- R155: `Fx65` loads V0 to Vx from I to I + x; the registers above, memory and I are unchanged; where I + x is 4096
or more it halts with nothing loaded (the record: the spec's decision D21). -/
def Obligations.LoadRegistersUpToVx : Prop :=
  (∀ x : Reg, decodeWord (0xF#4 ++ (regField x ++ 0x65#8)) = some (.ldVxMem x)) ∧
  (∀ (x : Reg) (s : State), s.i.toNat + x.val < 4096 →
    ∃ t, exec (.ldVxMem x) s = .next t ∧ t = { s with v := t.v, pc := s.pc + 2 } ∧
      (∀ k : Reg, k ≤ x → t.readV k = s.byteAt (s.i.toNat + k.val)) ∧ ∀ r : Reg, x < r → t.readV r = s.readV r) ∧
  (∀ (x : Reg) (s : State), 4096 ≤ s.i.toNat + x.val →
    exec (.ldVxMem x) s = .next { s with mode := .halted (.outOfBounds (max s.i.toNat 4096) s.pc) })

/-- 95_test_vectors.md S8 (R154, R155): `Fx55`, then any change of the registers, then `Fx65` brings V0 to Vx back, I
unchanged by either. -/
def Obligations.StoreThenLoadRoundTrip : Prop :=
  ∀ (x : Reg) (s t : State) (v' : Vector Byte 16), s.i.toNat + x.val < 4096 → exec (.ldMemVx x) s = .next t →
    ∃ u, exec (.ldVxMem x) { t with v := v' } = .next u ∧ u.i = s.i ∧ t.i = s.i ∧ ∀ k : Reg, k ≤ x → u.readV k = s.readV k

/-! ## Display -/

/-- R160: `00E0` emits one `clear` and changes nothing else but pc. -/
def Obligations.ClearEmitsOneCommand : Prop :=
  decodeWord 0x00E0#16 = some .cls ∧
  ∀ s : State, exec .cls s = .next { s with display := s.display ++ [.clear], pc := s.pc + 2 }

/-- R161, R223 (the spec's decisions D17, D20, D21): `Dxyn` emits one `draw` with the old Vx and Vy, not reduced, and
the `n` bytes at I and up, and leaves the display's answer in VF, whatever it is; with n = 0 it cannot fault; an
access past the end halts with nothing emitted. -/
def Obligations.DrawEmitsTheSprite : Prop :=
  (∀ (x y : Reg) (n : BitVec 4), decodeWord (0xD#4 ++ (regField x ++ (regField y ++ n))) = some (.drwVxVyN x y n.toNat)) ∧
  (∀ (x y : Reg) (n : Nat) (s : State), n = 0 ∨ s.i.toNat + n ≤ 4096 →
    ∃ t sprite, exec (.drwVxVyN x y n) s = .next t ∧
      t = { s with v := t.v, pc := s.pc + 2, display := s.display ++ [.draw (s.readV x) (s.readV y) sprite] } ∧
      sprite.length = n ∧ (∀ k < n, sprite[k]? = some (s.byteAt (s.i.toNat + k))) ∧
      t.readV regVF = (if s.env.collided then 1 else 0) ∧ ∀ r, r ≠ regVF → t.readV r = s.readV r) ∧
  (∀ (x y : Reg) (n : Nat) (s : State), 0 < n → 4096 < s.i.toNat + n →
    exec (.drwVxVyN x y n) s = .next { s with mode := .halted (.outOfBounds (max s.i.toNat 4096) s.pc) })

/-! ## Keypad -/

/-- R170, R171 (the spec's decision D18): `Ex9E` and `ExA1` present the whole byte Vx and skip on the keypad's answer
for it, whatever it is, indices above 15 included. -/
def Obligations.KeySkipsFollowTheKeypad : Prop :=
  (∀ x : Reg, decodeWord (0xE#4 ++ (regField x ++ 0x9E#8)) = some (.skpVx x) ∧
    decodeWord (0xE#4 ++ (regField x ++ 0xA1#8)) = some (.sknpVx x)) ∧
  (∀ (x : Reg) (s : State) (down : Bool), s.env.keyDown.getLsbD (s.readV x).toNat = down →
    exec (.skpVx x) s = .next { s with
      keyQueries := s.keyQueries ++ [s.readV x], pc := if down then s.pc + 4 else s.pc + 2 } ∧
    exec (.sknpVx x) s = .next { s with
      keyQueries := s.keyQueries ++ [s.readV x], pc := if down then s.pc + 2 else s.pc + 4 })

/-- R172 (the spec's decisions D3, D7): `Fx0A` enters the wait and changes nothing else, pc included; the `Step` that
executes it answers `Waiting`, and so does every `Step` in the wait, changing nothing. -/
def Obligations.WaitForKeyChangesOnlyTheMode : Prop :=
  (∀ x : Reg, decodeWord (0xF#4 ++ (regField x ++ 0x0A#8)) = some (.ldVxK x)) ∧
  (∀ (x : Reg) (s : State), exec (.ldVxK x) s = .next { s with mode := .waitingForKey x }) ∧
  (∀ (x : Reg) (s : State) (e e' : Env), s.mode = .running → fetch s = .ok s.wordAtPc →
    decodeWord s.wordAtPc = some (.ldVxK x) →
    ∃ t, perform (.step e) s = .next t ∧ t = { s with env := e, mode := .waitingForKey x, result := .waiting } ∧
      perform (.step e') t = .next t)

/-! ## Timer access and the sound signal -/

/-- R180, R182: `Fx07` reads DT, `Fx18` sets ST, and `sound_active` follows at once. -/
def Obligations.ReadDelaySetSound : Prop :=
  (∀ x : Reg, decodeWord (0xF#4 ++ (regField x ++ 0x07#8)) = some (.ldVxDt x) ∧
    decodeWord (0xF#4 ++ (regField x ++ 0x18#8)) = some (.ldStVx x)) ∧
  (∀ (x : Reg) (s : State), ∃ t, exec (.ldVxDt x) s = .next t ∧ t = { s with v := t.v, pc := s.pc + 2 } ∧
    t.readV x = s.dt ∧ ∀ r, r ≠ x → t.readV r = s.readV r) ∧
  (∀ (x : Reg) (s : State), ∃ t, exec (.ldStVx x) s = .next t ∧ t = { s with st := s.readV x, pc := s.pc + 2 } ∧
    (t.soundActive = true ↔ s.readV x ≠ 0))

/-- R181, R268 (a derivation the spec marks as its own): `Fx15` sets DT and leaves the residue, so a `Tick` decrements
the new value exactly when the whole debt reaches one period. For any resolution (R4; log 12). -/
def Obligations.SetDelayKeepsTheDebt : Prop :=
  (∀ x : Reg, decodeWord (0xF#4 ++ (regField x ++ 0x15#8)) = some (.ldDtVx x)) ∧
  (∀ (x : Reg) (s : State), exec (.ldDtVx x) s = .next { s with dt := s.readV x, pc := s.pc + 2 }) ∧
  (∀ (x : Reg) (s t : State) (elapsed : Nat), exec (.ldDtVx x) s = .next t → s.readV x ≠ 0 →
    ((opTick elapsed t).dt ≠ t.dt ↔ s.residue + 60 * elapsed ≥ s.params.timeUnitsPerSecond.val))

/-- R221, R37 (the spec's decision D8): `sound_active` after a `Tick` tells whether ST outlasted the periods that
elapsed, at any resolution (R4; log 12). -/
def Obligations.SoundEndsWithItsTimer : Prop :=
  ∀ (s : State) (elapsed : Nat), ∃ t, perform (.tick elapsed) s = .next t ∧
    (t.soundActive = true ↔ (s.residue + 60 * elapsed) / s.params.timeUnitsPerSecond.val < s.st.toNat)
end

