-- ==== Sys2Proof/Laws/Decode.lean ====
section
/-! SUPPORT. The fields of a word and of an encoded word, as numbers (R82, R83). -/

namespace Sys2Proof

theorem toNat_append_eq {n m : Nat} (a : BitVec n) (b : BitVec m) :
    (a ++ b).toNat = a.toNat * 2 ^ m + b.toNat := by
  rw [BitVec.toNat_append, Nat.shiftLeft_eq, Nat.mul_comm, Nat.two_pow_add_eq_or_of_lt b.isLt, Nat.mul_comm]

/-! ## Byte order -/

theorem wordOf_toNat (hi lo : Byte) : (wordOf hi lo).toNat = hi.toNat * 256 + lo.toNat := toNat_append_eq hi lo

theorem highByte_toNat (w : Word) : (highByte w).toNat = w.toNat / 256 := by
  have := w.isLt
  simp only [highByte, BitVec.extractLsb'_toNat, Nat.shiftRight_eq_div_pow]
  omega

theorem lowByte_toNat (w : Word) : (lowByte w).toNat = w.toNat % 256 := by simp [lowByte]

@[simp] theorem wordOf_bytes (w : Word) : wordOf (highByte w) (lowByte w) = w := by
  apply BitVec.eq_of_toNat_eq
  rw [wordOf_toNat, highByte_toNat, lowByte_toNat]
  omega

@[simp] theorem highByte_wordOf (hi lo : Byte) : highByte (wordOf hi lo) = hi := by
  have := lo.isLt
  apply BitVec.eq_of_toNat_eq
  rw [highByte_toNat, wordOf_toNat]
  omega

@[simp] theorem lowByte_wordOf (hi lo : Byte) : lowByte (wordOf hi lo) = lo := by
  have := lo.isLt
  apply BitVec.eq_of_toNat_eq
  rw [lowByte_toNat, wordOf_toNat]
  omega

/-! ## The fields of any word -/

theorem fieldClass_eq (op : Word) : fieldClass op = op.toNat / 4096 := by
  have := op.isLt
  simp only [fieldClass, BitVec.extractLsb'_toNat, Nat.shiftRight_eq_div_pow]
  omega

theorem fieldX_val (op : Word) : (fieldX op).val = op.toNat / 256 % 16 := by
  simp [fieldX, Nat.shiftRight_eq_div_pow]

theorem fieldY_val (op : Word) : (fieldY op).val = op.toNat / 16 % 16 := by
  simp [fieldY, Nat.shiftRight_eq_div_pow]

theorem fieldN_eq (op : Word) : fieldN op = op.toNat % 16 := by simp [fieldN]

theorem fieldNN_toNat (op : Word) : (fieldNN op).toNat = op.toNat % 256 := by simp [fieldNN]

theorem fieldNNN_toNat (op : Word) : (fieldNNN op).toNat = op.toNat % 4096 := by
  simp only [fieldNNN, BitVec.toNat_setWidth, BitVec.extractLsb'_toNat, Nat.shiftRight_eq_div_pow]
  omega

/-! ## The fields of an encoded word -/

section
variable (c : BitVec 4) (x y : Reg) (n : BitVec 4) (nn : Byte) (nnn : Word)

theorem encodeXNN_toNat : (encodeXNN c x nn).toNat = c.toNat * 4096 + x.val * 256 + nn.toNat := by
  simp only [encodeXNN, regField, toNat_append_eq, BitVec.toNat_ofNat]
  omega

theorem encodeXYN_toNat :
    (encodeXYN c x y n).toNat = c.toNat * 4096 + x.val * 256 + y.val * 16 + n.toNat := by
  simp only [encodeXYN, regField, toNat_append_eq, BitVec.toNat_ofNat]
  omega

theorem encodeNNN_toNat : (encodeNNN c nnn).toNat = c.toNat * 4096 + nnn.toNat % 4096 := by
  simp only [encodeNNN, toNat_append_eq, BitVec.extractLsb'_toNat]
  simp

@[simp] theorem fieldClass_encodeXNN : fieldClass (encodeXNN c x nn) = c.toNat := by
  have := nn.isLt
  have := x.isLt
  rw [fieldClass_eq, encodeXNN_toNat]
  omega

@[simp] theorem fieldX_encodeXNN : fieldX (encodeXNN c x nn) = x := by
  have := nn.isLt
  have := x.isLt
  apply Fin.ext
  rw [fieldX_val, encodeXNN_toNat]
  omega

@[simp] theorem fieldNN_encodeXNN : fieldNN (encodeXNN c x nn) = nn := by
  have := nn.isLt
  apply BitVec.eq_of_toNat_eq
  rw [fieldNN_toNat, encodeXNN_toNat]
  omega

@[simp] theorem fieldClass_encodeXYN : fieldClass (encodeXYN c x y n) = c.toNat := by
  have := n.isLt
  have := x.isLt
  have := y.isLt
  rw [fieldClass_eq, encodeXYN_toNat]
  omega

@[simp] theorem fieldX_encodeXYN : fieldX (encodeXYN c x y n) = x := by
  have := n.isLt
  have := x.isLt
  have := y.isLt
  apply Fin.ext
  rw [fieldX_val, encodeXYN_toNat]
  omega

@[simp] theorem fieldY_encodeXYN : fieldY (encodeXYN c x y n) = y := by
  have := n.isLt
  have := y.isLt
  apply Fin.ext
  rw [fieldY_val, encodeXYN_toNat]
  omega

@[simp] theorem fieldN_encodeXYN : fieldN (encodeXYN c x y n) = n.toNat := by
  have := n.isLt
  rw [fieldN_eq, encodeXYN_toNat]
  omega

@[simp] theorem fieldClass_encodeNNN : fieldClass (encodeNNN c nnn) = c.toNat := by
  rw [fieldClass_eq, encodeNNN_toNat]
  omega

/-- The address comes back whole exactly where its upper four bits are zero (R84). -/
theorem fieldNNN_encodeNNN (h : addressFits nnn = true) : fieldNNN (encodeNNN c nnn) = nnn := by
  simp only [addressFits, decide_eq_true_eq] at h
  apply BitVec.eq_of_toNat_eq
  rw [fieldNNN_toNat, encodeNNN_toNat]
  omega

end

/-! ## Putting the fields of a word together again -/

theorem encodeXNN_fields (op : Word) :
    encodeXNN (BitVec.ofNat 4 (fieldClass op)) (fieldX op) (fieldNN op) = op := by
  have := op.isLt
  apply BitVec.eq_of_toNat_eq
  rw [encodeXNN_toNat, fieldX_val, fieldNN_toNat, BitVec.toNat_ofNat, fieldClass_eq]
  omega

theorem encodeXYN_fields (op : Word) :
    encodeXYN (BitVec.ofNat 4 (fieldClass op)) (fieldX op) (fieldY op) (BitVec.ofNat 4 (fieldN op)) = op := by
  have := op.isLt
  apply BitVec.eq_of_toNat_eq
  rw [encodeXYN_toNat, fieldX_val, fieldY_val, BitVec.toNat_ofNat, BitVec.toNat_ofNat, fieldClass_eq, fieldN_eq]
  omega

theorem encodeNNN_fields (op : Word) :
    encodeNNN (BitVec.ofNat 4 (fieldClass op)) (fieldNNN op) = op := by
  have := op.isLt
  apply BitVec.eq_of_toNat_eq
  rw [encodeNNN_toNat, fieldNNN_toNat, BitVec.toNat_ofNat, fieldClass_eq]
  omega

theorem addressFits_fieldNNN (op : Word) : addressFits (fieldNNN op) = true := by
  simp only [addressFits, decide_eq_true_eq, fieldNNN_toNat]
  omega

theorem countFits_fieldN (op : Word) : countFits (fieldN op) = true := by
  simp only [countFits, decide_eq_true_eq, fieldN_eq]
  omega

/-! ## Reading a byte sequence -/

/-- Two bytes and more decode as the word they form (R58, R80). -/
theorem decode_of_decodeWord {op : Word} {i : Instr} (h : decodeWord op = some i) (rest : List Byte) :
    decode (wordBytes op ++ rest) = .ok (i, rest) := by
  simp [decode, wordBytes, h]

/-- The table's numbering of a 16-bit word is the word itself. -/
theorem decodeTableWord_eq (w : Nat) : decodeTableWord 16 w = decodeWord (BitVec.ofNat 16 w) := by
  have hw : tableWord 16 w = BitVec.ofNat 16 w := by
    apply BitVec.eq_of_toNat_eq
    simp [tableWord]
  cases h : decodeWord (BitVec.ofNat 16 w) <;> simp [decodeTableWord, hw, decode, wordBytes, h]

end Sys2Proof
end

