-- ==== Sys2Proof/Laws/Memory.lean ====
section
/-! SUPPORT. Memory: a read after a write, the canonical form and its uniqueness, blocks of bytes (R53 to R62). -/

namespace Sys2Proof.Machine

variable {rom : FontRom}

/-! ## One byte -/

theorem Memory.read_erase (m : Memory) (a c : Nat) :
    (m.erase a).read rom c = if c = a then Config.resetByte rom a else m.read rom c := by
  induction m with
  | nil => by_cases h : c = a <;> simp [Memory.erase, Memory.read, h]
  | cons e m ih =>
    obtain ⟨k, d⟩ := e
    by_cases hk : k = a <;> by_cases hc : c = a <;> simp_all [Memory.erase, Memory.read, eq_comm]

theorem Memory.read_insert (m : Memory) (a : Nat) (b : Byte) (c : Nat) (fresh : ∀ e ∈ m, e.1 ≠ a) :
    (m.insert a b).read rom c = if c = a then b else m.read rom c := by
  induction m with
  | nil => simp [Memory.insert, Memory.read, eq_comm]
  | cons e m ih =>
    obtain ⟨k, d⟩ := e
    have hk : k ≠ a := fresh (k, d) (by simp)
    have ih' := ih fun e he => fresh e (by simp [he])
    by_cases hlt : a < k
    · simp [Memory.insert, Memory.read, hlt, eq_comm]
    · by_cases hc : k = c
      · subst hc; simp [Memory.insert, Memory.read, hlt, hk]
      · simp [Memory.insert, Memory.read, hlt, hc, ih']

theorem Memory.erase_fresh (m : Memory) (a : Nat) : ∀ e ∈ m.erase a, e.1 ≠ a := by
  induction m with
  | nil => simp [Memory.erase]
  | cons e m ih =>
    obtain ⟨k, d⟩ := e
    intro e he
    by_cases hk : k = a
    · rw [Memory.erase, if_pos hk] at he
      exact ih e he
    · rw [Memory.erase, if_neg hk] at he
      obtain rfl | he := List.mem_cons.mp he
      · exact hk
      · exact ih e he

/-- A write gives its byte to its own address and leaves every other address alone (R57). -/
theorem Memory.read_write (m : Memory) (a : Nat) (b : Byte) (c : Nat) :
    (m.write rom a b).read rom c = if c = a then b else m.read rom c := by
  by_cases hb : b = Config.resetByte rom a
  · rw [Memory.write, if_pos hb, Memory.read_erase, hb]
  · rw [Memory.write, if_neg hb, Memory.read_insert _ _ _ _ (m.erase_fresh a), Memory.read_erase]
    by_cases hc : c = a <;> simp [hc]

@[simp] theorem Memory.read_write_same (m : Memory) (a : Nat) (b : Byte) : (m.write rom a b).read rom a = b := by
  simp [Memory.read_write]

theorem Memory.read_write_ne (m : Memory) (a : Nat) (b : Byte) {c : Nat} (h : c ≠ a) :
    (m.write rom a b).read rom c = m.read rom c := by
  simp [Memory.read_write, h]

/-! ## The canonical form -/

theorem Memory.wfFrom_cons (low k : Nat) (c : Byte) (m : Memory) :
    Memory.wfFrom rom low ((k, c) :: m) = true ↔
      low ≤ k ∧ k < 4096 ∧ c ≠ Config.resetByte rom k ∧ Memory.wfFrom rom (k + 1) m = true := by
  simp only [Memory.wfFrom, Bool.and_eq_true, decide_eq_true_eq, and_assoc]
  rfl

theorem Memory.wfFrom_mono {low low' : Nat} {m : Memory} (h : Memory.wfFrom rom low m = true) (hl : low' ≤ low) :
    Memory.wfFrom rom low' m = true := by
  cases m with
  | nil => rfl
  | cons e m =>
    obtain ⟨k, c⟩ := e
    rw [Memory.wfFrom_cons] at h ⊢
    exact ⟨hl.trans h.1, h.2⟩

theorem Memory.wfFrom_erase {low : Nat} {m : Memory} (h : Memory.wfFrom rom low m = true) (a : Nat) :
    Memory.wfFrom rom low (m.erase a) = true := by
  induction m generalizing low with
  | nil => rfl
  | cons e m ih =>
    obtain ⟨k, c⟩ := e
    rw [Memory.wfFrom_cons] at h
    obtain ⟨hl, hk, hc, hm⟩ := h
    by_cases hka : k = a
    · rw [Memory.erase, if_pos hka]
      exact Memory.wfFrom_mono (ih hm) (by omega)
    · rw [Memory.erase, if_neg hka, Memory.wfFrom_cons]
      exact ⟨hl, hk, hc, ih hm⟩

theorem Memory.wfFrom_insert {low : Nat} {m : Memory} (h : Memory.wfFrom rom low m = true) {a : Nat} {b : Byte}
    (fresh : ∀ e ∈ m, e.1 ≠ a) (hl : low ≤ a) (ha : a < 4096) (hb : b ≠ Config.resetByte rom a) :
    Memory.wfFrom rom low (m.insert a b) = true := by
  induction m generalizing low with
  | nil => rw [Memory.insert, Memory.wfFrom_cons]; exact ⟨hl, ha, hb, rfl⟩
  | cons e m ih =>
    obtain ⟨k, c⟩ := e
    have hka : k ≠ a := fresh (k, c) (by simp)
    rw [Memory.wfFrom_cons] at h
    obtain ⟨hlk, hk, hc, hm⟩ := h
    by_cases hlt : a < k
    · rw [Memory.insert, if_pos hlt, Memory.wfFrom_cons, Memory.wfFrom_cons]
      exact ⟨hl, ha, hb, hlt, hk, hc, hm⟩
    · rw [Memory.insert, if_neg hlt, Memory.wfFrom_cons]
      exact ⟨hlk, hk, hc, ih hm (fun e he => fresh e (by simp [he])) (by omega)⟩

/-- A write inside the capacity keeps the canonical form. -/
theorem Memory.wf_write {m : Memory} (h : m.wf rom = true) {a : Nat} (ha : a < 4096) (b : Byte) :
    (m.write rom a b).wf rom = true := by
  by_cases hb : b = Config.resetByte rom a
  · rw [Memory.write, if_pos hb]; exact Memory.wfFrom_erase h a
  · rw [Memory.write, if_neg hb]
    exact Memory.wfFrom_insert (Memory.wfFrom_erase h a) (m.erase_fresh a) (Nat.zero_le a) ha hb

/-- An address below a canonical memory's entries reads as its reset contents. -/
theorem Memory.read_below {low : Nat} {m : Memory} (h : Memory.wfFrom rom low m = true) {a : Nat} (ha : a < low) :
    m.read rom a = Config.resetByte rom a := by
  induction m generalizing low with
  | nil => rfl
  | cons e m ih =>
    obtain ⟨k, c⟩ := e
    rw [Memory.wfFrom_cons] at h
    rw [Memory.read, if_neg (by omega)]
    exact ih h.2.2.2 (by omega)

/-! ## Blocks of bytes -/

theorem Memory.length_readBytes (m : Memory) (base n : Nat) : (m.readBytes rom base n).length = n := by
  induction n generalizing base with
  | zero => rfl
  | succ n ih => simp [Memory.readBytes, ih]

theorem Memory.getElem_readBytes (m : Memory) (base n k : Nat) (h : k < (m.readBytes rom base n).length) :
    (m.readBytes rom base n)[k] = m.read rom (base + k) := by
  induction n generalizing base k with
  | zero => simp [Memory.readBytes] at h
  | succ n ih =>
    cases k with
    | zero => simp [Memory.readBytes]
    | succ k =>
      simp only [Memory.readBytes, List.getElem_cons_succ]
      rw [ih]
      congr 1
      omega

/-- A block write gives its bytes to its own addresses and leaves every other address alone (R56, R57). -/
theorem Memory.read_writeBytes (m : Memory) (base : Nat) (bs : List Byte) (a : Nat) :
    (m.writeBytes rom base bs).read rom a =
      if h : base ≤ a ∧ a - base < bs.length then bs[a - base]'h.2 else m.read rom a := by
  induction bs generalizing base with
  | nil => simp [Memory.writeBytes]
  | cons b bs ih =>
    rw [Memory.writeBytes, Memory.read_write]
    by_cases ha : a = base
    · subst ha; simp
    · rw [if_neg ha, ih]
      by_cases hin : base + 1 ≤ a ∧ a - (base + 1) < bs.length
      · have h2 : base ≤ a ∧ a - base < (b :: bs).length := ⟨by omega, by simp only [List.length_cons]; omega⟩
        rw [dif_pos hin, dif_pos h2]
        have : a - base = (a - (base + 1)) + 1 := by omega
        simp only [this, List.getElem_cons_succ]
      · have h2 : ¬ (base ≤ a ∧ a - base < (b :: bs).length) := by
          simp only [List.length_cons]; omega
        rw [dif_neg hin, dif_neg h2]

theorem Memory.read_writeBytes_outside (m : Memory) (base : Nat) (bs : List Byte) {a : Nat}
    (h : a < base ∨ base + bs.length ≤ a) : (m.writeBytes rom base bs).read rom a = m.read rom a := by
  rw [Memory.read_writeBytes, dif_neg (by omega)]

theorem Memory.read_writeBytes_inside (m : Memory) (base : Nat) (bs : List Byte) (k : Nat) (h : k < bs.length) :
    (m.writeBytes rom base bs).read rom (base + k) = bs[k] := by
  rw [Memory.read_writeBytes, dif_pos ⟨by omega, by omega⟩]
  simp only [Nat.add_sub_cancel_left]

/-- A block write inside the capacity keeps the canonical form. -/
theorem Memory.wf_writeBytes {m : Memory} (h : m.wf rom = true) (base : Nat) (bs : List Byte)
    (hb : base + bs.length ≤ 4096) : (m.writeBytes rom base bs).wf rom = true := by
  induction bs generalizing base with
  | nil => exact h
  | cons b bs ih =>
    simp only [List.length_cons] at hb
    exact Memory.wf_write (ih (base + 1) (by omega)) (by omega) b

end Sys2Proof.Machine
end

