-- ==== Sys2Proof/Laws/State.lean ====
section
/-! SUPPORT. What each update of the state does to each field, true by `rfl`, so that no proof unfolds a record update. -/

namespace Sys2Proof.Machine

variable (s : State)

/-! ## `writeV` -/

@[simp] theorem State.writeV_v (x : Reg) (b : Byte) : (s.writeV x b).v = s.v.set x.val b := rfl
@[simp] theorem State.writeV_i (x : Reg) (b : Byte) : (s.writeV x b).i = s.i := rfl
@[simp] theorem State.writeV_pc (x : Reg) (b : Byte) : (s.writeV x b).pc = s.pc := rfl
@[simp] theorem State.writeV_stack (x : Reg) (b : Byte) : (s.writeV x b).stack = s.stack := rfl
@[simp] theorem State.writeV_dt (x : Reg) (b : Byte) : (s.writeV x b).dt = s.dt := rfl
@[simp] theorem State.writeV_st (x : Reg) (b : Byte) : (s.writeV x b).st = s.st := rfl
@[simp] theorem State.writeV_residue (x : Reg) (b : Byte) : (s.writeV x b).residue = s.residue := rfl
@[simp] theorem State.writeV_mode (x : Reg) (b : Byte) : (s.writeV x b).mode = s.mode := rfl
@[simp] theorem State.writeV_mem (x : Reg) (b : Byte) : (s.writeV x b).mem = s.mem := rfl
@[simp] theorem State.writeV_result (x : Reg) (b : Byte) : (s.writeV x b).result = s.result := rfl
@[simp] theorem State.writeV_display (x : Reg) (b : Byte) : (s.writeV x b).display = s.display := rfl
@[simp] theorem State.writeV_keyQueries (x : Reg) (b : Byte) : (s.writeV x b).keyQueries = s.keyQueries := rfl
@[simp] theorem State.writeV_env (x : Reg) (b : Byte) : (s.writeV x b).env = s.env := rfl
@[simp] theorem State.writeV_draws (x : Reg) (b : Byte) : (s.writeV x b).draws = s.draws := rfl
@[simp] theorem State.writeV_pending (x : Reg) (b : Byte) : (s.writeV x b).pending = s.pending := rfl
@[simp] theorem State.writeV_unscheduled (x : Reg) (b : Byte) : (s.writeV x b).unscheduled = s.unscheduled := rfl
@[simp] theorem State.writeV_params (x : Reg) (b : Byte) : (s.writeV x b).params = s.params := rfl

/-! ## `writeI` -/

@[simp] theorem State.writeI_v (w : Word) : (s.writeI w).v = s.v := rfl
@[simp] theorem State.writeI_i (w : Word) : (s.writeI w).i = w := rfl
@[simp] theorem State.writeI_pc (w : Word) : (s.writeI w).pc = s.pc := rfl
@[simp] theorem State.writeI_stack (w : Word) : (s.writeI w).stack = s.stack := rfl
@[simp] theorem State.writeI_dt (w : Word) : (s.writeI w).dt = s.dt := rfl
@[simp] theorem State.writeI_st (w : Word) : (s.writeI w).st = s.st := rfl
@[simp] theorem State.writeI_residue (w : Word) : (s.writeI w).residue = s.residue := rfl
@[simp] theorem State.writeI_mode (w : Word) : (s.writeI w).mode = s.mode := rfl
@[simp] theorem State.writeI_mem (w : Word) : (s.writeI w).mem = s.mem := rfl
@[simp] theorem State.writeI_result (w : Word) : (s.writeI w).result = s.result := rfl
@[simp] theorem State.writeI_display (w : Word) : (s.writeI w).display = s.display := rfl
@[simp] theorem State.writeI_keyQueries (w : Word) : (s.writeI w).keyQueries = s.keyQueries := rfl
@[simp] theorem State.writeI_env (w : Word) : (s.writeI w).env = s.env := rfl
@[simp] theorem State.writeI_draws (w : Word) : (s.writeI w).draws = s.draws := rfl
@[simp] theorem State.writeI_pending (w : Word) : (s.writeI w).pending = s.pending := rfl
@[simp] theorem State.writeI_unscheduled (w : Word) : (s.writeI w).unscheduled = s.unscheduled := rfl
@[simp] theorem State.writeI_params (w : Word) : (s.writeI w).params = s.params := rfl

/-! ## `jump` -/

@[simp] theorem State.jump_v (a : Word) : (s.jump a).v = s.v := rfl
@[simp] theorem State.jump_i (a : Word) : (s.jump a).i = s.i := rfl
@[simp] theorem State.jump_pc (a : Word) : (s.jump a).pc = a := rfl
@[simp] theorem State.jump_stack (a : Word) : (s.jump a).stack = s.stack := rfl
@[simp] theorem State.jump_dt (a : Word) : (s.jump a).dt = s.dt := rfl
@[simp] theorem State.jump_st (a : Word) : (s.jump a).st = s.st := rfl
@[simp] theorem State.jump_residue (a : Word) : (s.jump a).residue = s.residue := rfl
@[simp] theorem State.jump_mode (a : Word) : (s.jump a).mode = s.mode := rfl
@[simp] theorem State.jump_mem (a : Word) : (s.jump a).mem = s.mem := rfl
@[simp] theorem State.jump_result (a : Word) : (s.jump a).result = s.result := rfl
@[simp] theorem State.jump_display (a : Word) : (s.jump a).display = s.display := rfl
@[simp] theorem State.jump_keyQueries (a : Word) : (s.jump a).keyQueries = s.keyQueries := rfl
@[simp] theorem State.jump_env (a : Word) : (s.jump a).env = s.env := rfl
@[simp] theorem State.jump_draws (a : Word) : (s.jump a).draws = s.draws := rfl
@[simp] theorem State.jump_pending (a : Word) : (s.jump a).pending = s.pending := rfl
@[simp] theorem State.jump_unscheduled (a : Word) : (s.jump a).unscheduled = s.unscheduled := rfl
@[simp] theorem State.jump_params (a : Word) : (s.jump a).params = s.params := rfl

/-! ## `advance` -/

@[simp] theorem State.advance_v : s.advance.v = s.v := rfl
@[simp] theorem State.advance_i : s.advance.i = s.i := rfl
@[simp] theorem State.advance_pc : s.advance.pc = s.pc + 2 := rfl
@[simp] theorem State.advance_stack : s.advance.stack = s.stack := rfl
@[simp] theorem State.advance_dt : s.advance.dt = s.dt := rfl
@[simp] theorem State.advance_st : s.advance.st = s.st := rfl
@[simp] theorem State.advance_residue : s.advance.residue = s.residue := rfl
@[simp] theorem State.advance_mode : s.advance.mode = s.mode := rfl
@[simp] theorem State.advance_mem : s.advance.mem = s.mem := rfl
@[simp] theorem State.advance_result : s.advance.result = s.result := rfl
@[simp] theorem State.advance_display : s.advance.display = s.display := rfl
@[simp] theorem State.advance_keyQueries : s.advance.keyQueries = s.keyQueries := rfl
@[simp] theorem State.advance_env : s.advance.env = s.env := rfl
@[simp] theorem State.advance_draws : s.advance.draws = s.draws := rfl
@[simp] theorem State.advance_pending : s.advance.pending = s.pending := rfl
@[simp] theorem State.advance_unscheduled : s.advance.unscheduled = s.unscheduled := rfl
@[simp] theorem State.advance_params : s.advance.params = s.params := rfl

/-! ## `skipIf` -/

@[simp] theorem State.skipIf_v (c : Bool) : (s.skipIf c).v = s.v := rfl
@[simp] theorem State.skipIf_i (c : Bool) : (s.skipIf c).i = s.i := rfl
@[simp] theorem State.skipIf_pc (c : Bool) : (s.skipIf c).pc = if c then s.pc + 4 else s.pc + 2 := rfl
@[simp] theorem State.skipIf_stack (c : Bool) : (s.skipIf c).stack = s.stack := rfl
@[simp] theorem State.skipIf_dt (c : Bool) : (s.skipIf c).dt = s.dt := rfl
@[simp] theorem State.skipIf_st (c : Bool) : (s.skipIf c).st = s.st := rfl
@[simp] theorem State.skipIf_residue (c : Bool) : (s.skipIf c).residue = s.residue := rfl
@[simp] theorem State.skipIf_mode (c : Bool) : (s.skipIf c).mode = s.mode := rfl
@[simp] theorem State.skipIf_mem (c : Bool) : (s.skipIf c).mem = s.mem := rfl
@[simp] theorem State.skipIf_result (c : Bool) : (s.skipIf c).result = s.result := rfl
@[simp] theorem State.skipIf_display (c : Bool) : (s.skipIf c).display = s.display := rfl
@[simp] theorem State.skipIf_keyQueries (c : Bool) : (s.skipIf c).keyQueries = s.keyQueries := rfl
@[simp] theorem State.skipIf_env (c : Bool) : (s.skipIf c).env = s.env := rfl
@[simp] theorem State.skipIf_draws (c : Bool) : (s.skipIf c).draws = s.draws := rfl
@[simp] theorem State.skipIf_pending (c : Bool) : (s.skipIf c).pending = s.pending := rfl
@[simp] theorem State.skipIf_unscheduled (c : Bool) : (s.skipIf c).unscheduled = s.unscheduled := rfl
@[simp] theorem State.skipIf_params (c : Bool) : (s.skipIf c).params = s.params := rfl

/-! ## `setDt` -/

@[simp] theorem State.setDt_v (b : Byte) : (s.setDt b).v = s.v := rfl
@[simp] theorem State.setDt_i (b : Byte) : (s.setDt b).i = s.i := rfl
@[simp] theorem State.setDt_pc (b : Byte) : (s.setDt b).pc = s.pc := rfl
@[simp] theorem State.setDt_stack (b : Byte) : (s.setDt b).stack = s.stack := rfl
@[simp] theorem State.setDt_dt (b : Byte) : (s.setDt b).dt = b := rfl
@[simp] theorem State.setDt_st (b : Byte) : (s.setDt b).st = s.st := rfl
@[simp] theorem State.setDt_residue (b : Byte) : (s.setDt b).residue = s.residue := rfl
@[simp] theorem State.setDt_mode (b : Byte) : (s.setDt b).mode = s.mode := rfl
@[simp] theorem State.setDt_mem (b : Byte) : (s.setDt b).mem = s.mem := rfl
@[simp] theorem State.setDt_result (b : Byte) : (s.setDt b).result = s.result := rfl
@[simp] theorem State.setDt_display (b : Byte) : (s.setDt b).display = s.display := rfl
@[simp] theorem State.setDt_keyQueries (b : Byte) : (s.setDt b).keyQueries = s.keyQueries := rfl
@[simp] theorem State.setDt_env (b : Byte) : (s.setDt b).env = s.env := rfl
@[simp] theorem State.setDt_draws (b : Byte) : (s.setDt b).draws = s.draws := rfl
@[simp] theorem State.setDt_pending (b : Byte) : (s.setDt b).pending = s.pending := rfl
@[simp] theorem State.setDt_unscheduled (b : Byte) : (s.setDt b).unscheduled = s.unscheduled := rfl
@[simp] theorem State.setDt_params (b : Byte) : (s.setDt b).params = s.params := rfl

/-! ## `setSt` -/

@[simp] theorem State.setSt_v (b : Byte) : (s.setSt b).v = s.v := rfl
@[simp] theorem State.setSt_i (b : Byte) : (s.setSt b).i = s.i := rfl
@[simp] theorem State.setSt_pc (b : Byte) : (s.setSt b).pc = s.pc := rfl
@[simp] theorem State.setSt_stack (b : Byte) : (s.setSt b).stack = s.stack := rfl
@[simp] theorem State.setSt_dt (b : Byte) : (s.setSt b).dt = s.dt := rfl
@[simp] theorem State.setSt_st (b : Byte) : (s.setSt b).st = b := rfl
@[simp] theorem State.setSt_residue (b : Byte) : (s.setSt b).residue = s.residue := rfl
@[simp] theorem State.setSt_mode (b : Byte) : (s.setSt b).mode = s.mode := rfl
@[simp] theorem State.setSt_mem (b : Byte) : (s.setSt b).mem = s.mem := rfl
@[simp] theorem State.setSt_result (b : Byte) : (s.setSt b).result = s.result := rfl
@[simp] theorem State.setSt_display (b : Byte) : (s.setSt b).display = s.display := rfl
@[simp] theorem State.setSt_keyQueries (b : Byte) : (s.setSt b).keyQueries = s.keyQueries := rfl
@[simp] theorem State.setSt_env (b : Byte) : (s.setSt b).env = s.env := rfl
@[simp] theorem State.setSt_draws (b : Byte) : (s.setSt b).draws = s.draws := rfl
@[simp] theorem State.setSt_pending (b : Byte) : (s.setSt b).pending = s.pending := rfl
@[simp] theorem State.setSt_unscheduled (b : Byte) : (s.setSt b).unscheduled = s.unscheduled := rfl
@[simp] theorem State.setSt_params (b : Byte) : (s.setSt b).params = s.params := rfl

/-! ## `setMode` -/

@[simp] theorem State.setMode_v (m : Mode) : (s.setMode m).v = s.v := rfl
@[simp] theorem State.setMode_i (m : Mode) : (s.setMode m).i = s.i := rfl
@[simp] theorem State.setMode_pc (m : Mode) : (s.setMode m).pc = s.pc := rfl
@[simp] theorem State.setMode_stack (m : Mode) : (s.setMode m).stack = s.stack := rfl
@[simp] theorem State.setMode_dt (m : Mode) : (s.setMode m).dt = s.dt := rfl
@[simp] theorem State.setMode_st (m : Mode) : (s.setMode m).st = s.st := rfl
@[simp] theorem State.setMode_residue (m : Mode) : (s.setMode m).residue = s.residue := rfl
@[simp] theorem State.setMode_mode (m : Mode) : (s.setMode m).mode = m := rfl
@[simp] theorem State.setMode_mem (m : Mode) : (s.setMode m).mem = s.mem := rfl
@[simp] theorem State.setMode_result (m : Mode) : (s.setMode m).result = s.result := rfl
@[simp] theorem State.setMode_display (m : Mode) : (s.setMode m).display = s.display := rfl
@[simp] theorem State.setMode_keyQueries (m : Mode) : (s.setMode m).keyQueries = s.keyQueries := rfl
@[simp] theorem State.setMode_env (m : Mode) : (s.setMode m).env = s.env := rfl
@[simp] theorem State.setMode_draws (m : Mode) : (s.setMode m).draws = s.draws := rfl
@[simp] theorem State.setMode_pending (m : Mode) : (s.setMode m).pending = s.pending := rfl
@[simp] theorem State.setMode_unscheduled (m : Mode) : (s.setMode m).unscheduled = s.unscheduled := rfl
@[simp] theorem State.setMode_params (m : Mode) : (s.setMode m).params = s.params := rfl

/-! ## `store` -/

@[simp] theorem State.store_v (base : Nat) (bs : List Byte) : (s.store base bs).v = s.v := rfl
@[simp] theorem State.store_i (base : Nat) (bs : List Byte) : (s.store base bs).i = s.i := rfl
@[simp] theorem State.store_pc (base : Nat) (bs : List Byte) : (s.store base bs).pc = s.pc := rfl
@[simp] theorem State.store_stack (base : Nat) (bs : List Byte) : (s.store base bs).stack = s.stack := rfl
@[simp] theorem State.store_dt (base : Nat) (bs : List Byte) : (s.store base bs).dt = s.dt := rfl
@[simp] theorem State.store_st (base : Nat) (bs : List Byte) : (s.store base bs).st = s.st := rfl
@[simp] theorem State.store_residue (base : Nat) (bs : List Byte) : (s.store base bs).residue = s.residue := rfl
@[simp] theorem State.store_mode (base : Nat) (bs : List Byte) : (s.store base bs).mode = s.mode := rfl
@[simp] theorem State.store_mem (base : Nat) (bs : List Byte) :
    (s.store base bs).mem = s.mem.writeBytes s.params.fontRom base bs := rfl
@[simp] theorem State.store_result (base : Nat) (bs : List Byte) : (s.store base bs).result = s.result := rfl
@[simp] theorem State.store_display (base : Nat) (bs : List Byte) : (s.store base bs).display = s.display := rfl
@[simp] theorem State.store_keyQueries (base : Nat) (bs : List Byte) :
    (s.store base bs).keyQueries = s.keyQueries := rfl
@[simp] theorem State.store_env (base : Nat) (bs : List Byte) : (s.store base bs).env = s.env := rfl
@[simp] theorem State.store_draws (base : Nat) (bs : List Byte) : (s.store base bs).draws = s.draws := rfl
@[simp] theorem State.store_pending (base : Nat) (bs : List Byte) : (s.store base bs).pending = s.pending := rfl
@[simp] theorem State.store_unscheduled (base : Nat) (bs : List Byte) : (s.store base bs).unscheduled = s.unscheduled := rfl
@[simp] theorem State.store_params (base : Nat) (bs : List Byte) : (s.store base bs).params = s.params := rfl

/-! ## `push` -/

@[simp] theorem State.push_v (a : Word) : (s.push a).v = s.v := rfl
@[simp] theorem State.push_i (a : Word) : (s.push a).i = s.i := rfl
@[simp] theorem State.push_pc (a : Word) : (s.push a).pc = s.pc := rfl
@[simp] theorem State.push_stack (a : Word) : (s.push a).stack = s.stack ++ [a] := rfl
@[simp] theorem State.push_dt (a : Word) : (s.push a).dt = s.dt := rfl
@[simp] theorem State.push_st (a : Word) : (s.push a).st = s.st := rfl
@[simp] theorem State.push_residue (a : Word) : (s.push a).residue = s.residue := rfl
@[simp] theorem State.push_mode (a : Word) : (s.push a).mode = s.mode := rfl
@[simp] theorem State.push_mem (a : Word) : (s.push a).mem = s.mem := rfl
@[simp] theorem State.push_result (a : Word) : (s.push a).result = s.result := rfl
@[simp] theorem State.push_display (a : Word) : (s.push a).display = s.display := rfl
@[simp] theorem State.push_keyQueries (a : Word) : (s.push a).keyQueries = s.keyQueries := rfl
@[simp] theorem State.push_env (a : Word) : (s.push a).env = s.env := rfl
@[simp] theorem State.push_draws (a : Word) : (s.push a).draws = s.draws := rfl
@[simp] theorem State.push_pending (a : Word) : (s.push a).pending = s.pending := rfl
@[simp] theorem State.push_unscheduled (a : Word) : (s.push a).unscheduled = s.unscheduled := rfl
@[simp] theorem State.push_params (a : Word) : (s.push a).params = s.params := rfl

/-! ## `dropTop` -/

@[simp] theorem State.dropTop_v : s.dropTop.v = s.v := rfl
@[simp] theorem State.dropTop_i : s.dropTop.i = s.i := rfl
@[simp] theorem State.dropTop_pc : s.dropTop.pc = s.pc := rfl
@[simp] theorem State.dropTop_stack : s.dropTop.stack = s.stack.dropLast := rfl
@[simp] theorem State.dropTop_dt : s.dropTop.dt = s.dt := rfl
@[simp] theorem State.dropTop_st : s.dropTop.st = s.st := rfl
@[simp] theorem State.dropTop_residue : s.dropTop.residue = s.residue := rfl
@[simp] theorem State.dropTop_mode : s.dropTop.mode = s.mode := rfl
@[simp] theorem State.dropTop_mem : s.dropTop.mem = s.mem := rfl
@[simp] theorem State.dropTop_result : s.dropTop.result = s.result := rfl
@[simp] theorem State.dropTop_display : s.dropTop.display = s.display := rfl
@[simp] theorem State.dropTop_keyQueries : s.dropTop.keyQueries = s.keyQueries := rfl
@[simp] theorem State.dropTop_env : s.dropTop.env = s.env := rfl
@[simp] theorem State.dropTop_draws : s.dropTop.draws = s.draws := rfl
@[simp] theorem State.dropTop_pending : s.dropTop.pending = s.pending := rfl
@[simp] theorem State.dropTop_unscheduled : s.dropTop.unscheduled = s.unscheduled := rfl
@[simp] theorem State.dropTop_params : s.dropTop.params = s.params := rfl

/-! ## `emit` -/

@[simp] theorem State.emit_v (c : DisplayCommand) : (s.emit c).v = s.v := rfl
@[simp] theorem State.emit_i (c : DisplayCommand) : (s.emit c).i = s.i := rfl
@[simp] theorem State.emit_pc (c : DisplayCommand) : (s.emit c).pc = s.pc := rfl
@[simp] theorem State.emit_stack (c : DisplayCommand) : (s.emit c).stack = s.stack := rfl
@[simp] theorem State.emit_dt (c : DisplayCommand) : (s.emit c).dt = s.dt := rfl
@[simp] theorem State.emit_st (c : DisplayCommand) : (s.emit c).st = s.st := rfl
@[simp] theorem State.emit_residue (c : DisplayCommand) : (s.emit c).residue = s.residue := rfl
@[simp] theorem State.emit_mode (c : DisplayCommand) : (s.emit c).mode = s.mode := rfl
@[simp] theorem State.emit_mem (c : DisplayCommand) : (s.emit c).mem = s.mem := rfl
@[simp] theorem State.emit_result (c : DisplayCommand) : (s.emit c).result = s.result := rfl
@[simp] theorem State.emit_display (c : DisplayCommand) : (s.emit c).display = s.display ++ [c] := rfl
@[simp] theorem State.emit_keyQueries (c : DisplayCommand) : (s.emit c).keyQueries = s.keyQueries := rfl
@[simp] theorem State.emit_env (c : DisplayCommand) : (s.emit c).env = s.env := rfl
@[simp] theorem State.emit_draws (c : DisplayCommand) : (s.emit c).draws = s.draws := rfl
@[simp] theorem State.emit_pending (c : DisplayCommand) : (s.emit c).pending = s.pending := rfl
@[simp] theorem State.emit_unscheduled (c : DisplayCommand) : (s.emit c).unscheduled = s.unscheduled := rfl
@[simp] theorem State.emit_params (c : DisplayCommand) : (s.emit c).params = s.params := rfl

/-! ## `presentKey` -/

@[simp] theorem State.presentKey_v (k : Byte) : (s.presentKey k).v = s.v := rfl
@[simp] theorem State.presentKey_i (k : Byte) : (s.presentKey k).i = s.i := rfl
@[simp] theorem State.presentKey_pc (k : Byte) : (s.presentKey k).pc = s.pc := rfl
@[simp] theorem State.presentKey_stack (k : Byte) : (s.presentKey k).stack = s.stack := rfl
@[simp] theorem State.presentKey_dt (k : Byte) : (s.presentKey k).dt = s.dt := rfl
@[simp] theorem State.presentKey_st (k : Byte) : (s.presentKey k).st = s.st := rfl
@[simp] theorem State.presentKey_residue (k : Byte) : (s.presentKey k).residue = s.residue := rfl
@[simp] theorem State.presentKey_mode (k : Byte) : (s.presentKey k).mode = s.mode := rfl
@[simp] theorem State.presentKey_mem (k : Byte) : (s.presentKey k).mem = s.mem := rfl
@[simp] theorem State.presentKey_result (k : Byte) : (s.presentKey k).result = s.result := rfl
@[simp] theorem State.presentKey_display (k : Byte) : (s.presentKey k).display = s.display := rfl
@[simp] theorem State.presentKey_keyQueries (k : Byte) : (s.presentKey k).keyQueries = s.keyQueries ++ [k] := rfl
@[simp] theorem State.presentKey_env (k : Byte) : (s.presentKey k).env = s.env := rfl
@[simp] theorem State.presentKey_draws (k : Byte) : (s.presentKey k).draws = s.draws := rfl
@[simp] theorem State.presentKey_pending (k : Byte) : (s.presentKey k).pending = s.pending := rfl
@[simp] theorem State.presentKey_unscheduled (k : Byte) : (s.presentKey k).unscheduled = s.unscheduled := rfl
@[simp] theorem State.presentKey_params (k : Byte) : (s.presentKey k).params = s.params := rfl

/-! ## `withEnv` -/

@[simp] theorem State.withEnv_v (e : Env) : (s.withEnv e).v = s.v := rfl
@[simp] theorem State.withEnv_i (e : Env) : (s.withEnv e).i = s.i := rfl
@[simp] theorem State.withEnv_pc (e : Env) : (s.withEnv e).pc = s.pc := rfl
@[simp] theorem State.withEnv_stack (e : Env) : (s.withEnv e).stack = s.stack := rfl
@[simp] theorem State.withEnv_dt (e : Env) : (s.withEnv e).dt = s.dt := rfl
@[simp] theorem State.withEnv_st (e : Env) : (s.withEnv e).st = s.st := rfl
@[simp] theorem State.withEnv_residue (e : Env) : (s.withEnv e).residue = s.residue := rfl
@[simp] theorem State.withEnv_mode (e : Env) : (s.withEnv e).mode = s.mode := rfl
@[simp] theorem State.withEnv_mem (e : Env) : (s.withEnv e).mem = s.mem := rfl
@[simp] theorem State.withEnv_result (e : Env) : (s.withEnv e).result = s.result := rfl
@[simp] theorem State.withEnv_display (e : Env) : (s.withEnv e).display = s.display := rfl
@[simp] theorem State.withEnv_keyQueries (e : Env) : (s.withEnv e).keyQueries = s.keyQueries := rfl
@[simp] theorem State.withEnv_env (e : Env) : (s.withEnv e).env = e := rfl
@[simp] theorem State.withEnv_draws (e : Env) : (s.withEnv e).draws = s.draws := rfl
@[simp] theorem State.withEnv_pending (e : Env) : (s.withEnv e).pending = s.pending := rfl
@[simp] theorem State.withEnv_unscheduled (e : Env) : (s.withEnv e).unscheduled = s.unscheduled := rfl
@[simp] theorem State.withEnv_params (e : Env) : (s.withEnv e).params = s.params := rfl

/-! ## `withPending` -/

@[simp] theorem State.withPending_v (ops : List Operation) : (s.withPending ops).v = s.v := rfl
@[simp] theorem State.withPending_i (ops : List Operation) : (s.withPending ops).i = s.i := rfl
@[simp] theorem State.withPending_pc (ops : List Operation) : (s.withPending ops).pc = s.pc := rfl
@[simp] theorem State.withPending_stack (ops : List Operation) : (s.withPending ops).stack = s.stack := rfl
@[simp] theorem State.withPending_dt (ops : List Operation) : (s.withPending ops).dt = s.dt := rfl
@[simp] theorem State.withPending_st (ops : List Operation) : (s.withPending ops).st = s.st := rfl
@[simp] theorem State.withPending_residue (ops : List Operation) : (s.withPending ops).residue = s.residue := rfl
@[simp] theorem State.withPending_mode (ops : List Operation) : (s.withPending ops).mode = s.mode := rfl
@[simp] theorem State.withPending_mem (ops : List Operation) : (s.withPending ops).mem = s.mem := rfl
@[simp] theorem State.withPending_result (ops : List Operation) : (s.withPending ops).result = s.result := rfl
@[simp] theorem State.withPending_display (ops : List Operation) : (s.withPending ops).display = s.display := rfl
@[simp] theorem State.withPending_keyQueries (ops : List Operation) :
    (s.withPending ops).keyQueries = s.keyQueries := rfl
@[simp] theorem State.withPending_env (ops : List Operation) : (s.withPending ops).env = s.env := rfl
@[simp] theorem State.withPending_draws (ops : List Operation) : (s.withPending ops).draws = s.draws := rfl
@[simp] theorem State.withPending_pending (ops : List Operation) : (s.withPending ops).pending = ops := rfl
@[simp] theorem State.withPending_unscheduled (ops : List Operation) : (s.withPending ops).unscheduled = s.unscheduled := rfl
@[simp] theorem State.withPending_params (ops : List Operation) : (s.withPending ops).params = s.params := rfl

/-! ## `withUnscheduled` -/

@[simp] theorem State.withUnscheduled_v (u : Unscheduled) : (s.withUnscheduled u).v = s.v := rfl
@[simp] theorem State.withUnscheduled_i (u : Unscheduled) : (s.withUnscheduled u).i = s.i := rfl
@[simp] theorem State.withUnscheduled_pc (u : Unscheduled) : (s.withUnscheduled u).pc = s.pc := rfl
@[simp] theorem State.withUnscheduled_stack (u : Unscheduled) : (s.withUnscheduled u).stack = s.stack := rfl
@[simp] theorem State.withUnscheduled_dt (u : Unscheduled) : (s.withUnscheduled u).dt = s.dt := rfl
@[simp] theorem State.withUnscheduled_st (u : Unscheduled) : (s.withUnscheduled u).st = s.st := rfl
@[simp] theorem State.withUnscheduled_residue (u : Unscheduled) : (s.withUnscheduled u).residue = s.residue := rfl
@[simp] theorem State.withUnscheduled_mode (u : Unscheduled) : (s.withUnscheduled u).mode = s.mode := rfl
@[simp] theorem State.withUnscheduled_mem (u : Unscheduled) : (s.withUnscheduled u).mem = s.mem := rfl
@[simp] theorem State.withUnscheduled_result (u : Unscheduled) : (s.withUnscheduled u).result = s.result := rfl
@[simp] theorem State.withUnscheduled_display (u : Unscheduled) : (s.withUnscheduled u).display = s.display := rfl
@[simp] theorem State.withUnscheduled_keyQueries (u : Unscheduled) : (s.withUnscheduled u).keyQueries = s.keyQueries := rfl
@[simp] theorem State.withUnscheduled_env (u : Unscheduled) : (s.withUnscheduled u).env = s.env := rfl
@[simp] theorem State.withUnscheduled_draws (u : Unscheduled) : (s.withUnscheduled u).draws = s.draws := rfl
@[simp] theorem State.withUnscheduled_pending (u : Unscheduled) : (s.withUnscheduled u).pending = s.pending := rfl
@[simp] theorem State.withUnscheduled_unscheduled (u : Unscheduled) : (s.withUnscheduled u).unscheduled = u := rfl
@[simp] theorem State.withUnscheduled_params (u : Unscheduled) : (s.withUnscheduled u).params = s.params := rfl

/-! ## `drawn` -/

@[simp] theorem State.drawn_v : s.drawn.v = s.v := rfl
@[simp] theorem State.drawn_i : s.drawn.i = s.i := rfl
@[simp] theorem State.drawn_pc : s.drawn.pc = s.pc := rfl
@[simp] theorem State.drawn_stack : s.drawn.stack = s.stack := rfl
@[simp] theorem State.drawn_dt : s.drawn.dt = s.dt := rfl
@[simp] theorem State.drawn_st : s.drawn.st = s.st := rfl
@[simp] theorem State.drawn_residue : s.drawn.residue = s.residue := rfl
@[simp] theorem State.drawn_mode : s.drawn.mode = s.mode := rfl
@[simp] theorem State.drawn_mem : s.drawn.mem = s.mem := rfl
@[simp] theorem State.drawn_result : s.drawn.result = s.result := rfl
@[simp] theorem State.drawn_display : s.drawn.display = s.display := rfl
@[simp] theorem State.drawn_keyQueries : s.drawn.keyQueries = s.keyQueries := rfl
@[simp] theorem State.drawn_env : s.drawn.env = s.env := rfl
@[simp] theorem State.drawn_draws : s.drawn.draws = s.draws + 1 := rfl
@[simp] theorem State.drawn_pending : s.drawn.pending = s.pending := rfl
@[simp] theorem State.drawn_unscheduled : s.drawn.unscheduled = s.unscheduled := rfl
@[simp] theorem State.drawn_params : s.drawn.params = s.params := rfl

/-! ## `returns` -/

@[simp] theorem State.returns_v (r : Result) : (s.returns r).v = s.v := rfl
@[simp] theorem State.returns_i (r : Result) : (s.returns r).i = s.i := rfl
@[simp] theorem State.returns_pc (r : Result) : (s.returns r).pc = s.pc := rfl
@[simp] theorem State.returns_stack (r : Result) : (s.returns r).stack = s.stack := rfl
@[simp] theorem State.returns_dt (r : Result) : (s.returns r).dt = s.dt := rfl
@[simp] theorem State.returns_st (r : Result) : (s.returns r).st = s.st := rfl
@[simp] theorem State.returns_residue (r : Result) : (s.returns r).residue = s.residue := rfl
@[simp] theorem State.returns_mode (r : Result) : (s.returns r).mode = s.mode := rfl
@[simp] theorem State.returns_mem (r : Result) : (s.returns r).mem = s.mem := rfl
@[simp] theorem State.returns_result (r : Result) : (s.returns r).result = r := rfl
@[simp] theorem State.returns_display (r : Result) : (s.returns r).display = s.display := rfl
@[simp] theorem State.returns_keyQueries (r : Result) : (s.returns r).keyQueries = s.keyQueries := rfl
@[simp] theorem State.returns_env (r : Result) : (s.returns r).env = s.env := rfl
@[simp] theorem State.returns_draws (r : Result) : (s.returns r).draws = s.draws := rfl
@[simp] theorem State.returns_pending (r : Result) : (s.returns r).pending = s.pending := rfl
@[simp] theorem State.returns_unscheduled (r : Result) : (s.returns r).unscheduled = s.unscheduled := rfl
@[simp] theorem State.returns_params (r : Result) : (s.returns r).params = s.params := rfl

/-! ## `writeFlag` -/

@[simp] theorem State.writeFlag_v (c : Bool) : (s.writeFlag c).v = s.v.set regVF.val (flagByte c) := rfl
@[simp] theorem State.writeFlag_i (c : Bool) : (s.writeFlag c).i = s.i := rfl
@[simp] theorem State.writeFlag_pc (c : Bool) : (s.writeFlag c).pc = s.pc := rfl
@[simp] theorem State.writeFlag_stack (c : Bool) : (s.writeFlag c).stack = s.stack := rfl
@[simp] theorem State.writeFlag_dt (c : Bool) : (s.writeFlag c).dt = s.dt := rfl
@[simp] theorem State.writeFlag_st (c : Bool) : (s.writeFlag c).st = s.st := rfl
@[simp] theorem State.writeFlag_residue (c : Bool) : (s.writeFlag c).residue = s.residue := rfl
@[simp] theorem State.writeFlag_mode (c : Bool) : (s.writeFlag c).mode = s.mode := rfl
@[simp] theorem State.writeFlag_mem (c : Bool) : (s.writeFlag c).mem = s.mem := rfl
@[simp] theorem State.writeFlag_result (c : Bool) : (s.writeFlag c).result = s.result := rfl
@[simp] theorem State.writeFlag_display (c : Bool) : (s.writeFlag c).display = s.display := rfl
@[simp] theorem State.writeFlag_keyQueries (c : Bool) : (s.writeFlag c).keyQueries = s.keyQueries := rfl
@[simp] theorem State.writeFlag_env (c : Bool) : (s.writeFlag c).env = s.env := rfl
@[simp] theorem State.writeFlag_draws (c : Bool) : (s.writeFlag c).draws = s.draws := rfl
@[simp] theorem State.writeFlag_pending (c : Bool) : (s.writeFlag c).pending = s.pending := rfl
@[simp] theorem State.writeFlag_unscheduled (c : Bool) : (s.writeFlag c).unscheduled = s.unscheduled := rfl
@[simp] theorem State.writeFlag_params (c : Bool) : (s.writeFlag c).params = s.params := rfl

/-! ## `writeResultFlag` -/

@[simp] theorem State.writeResultFlag_v (x : Reg) (r : Byte) (c : Bool) :
    (s.writeResultFlag x r c).v = (s.v.set x.val r).set regVF.val (flagByte c) := rfl
@[simp] theorem State.writeResultFlag_i (x : Reg) (r : Byte) (c : Bool) : (s.writeResultFlag x r c).i = s.i := rfl
@[simp] theorem State.writeResultFlag_pc (x : Reg) (r : Byte) (c : Bool) : (s.writeResultFlag x r c).pc = s.pc := rfl
@[simp] theorem State.writeResultFlag_stack (x : Reg) (r : Byte) (c : Bool) :
    (s.writeResultFlag x r c).stack = s.stack := rfl
@[simp] theorem State.writeResultFlag_dt (x : Reg) (r : Byte) (c : Bool) : (s.writeResultFlag x r c).dt = s.dt := rfl
@[simp] theorem State.writeResultFlag_st (x : Reg) (r : Byte) (c : Bool) : (s.writeResultFlag x r c).st = s.st := rfl
@[simp] theorem State.writeResultFlag_residue (x : Reg) (r : Byte) (c : Bool) :
    (s.writeResultFlag x r c).residue = s.residue := rfl
@[simp] theorem State.writeResultFlag_mode (x : Reg) (r : Byte) (c : Bool) :
    (s.writeResultFlag x r c).mode = s.mode := rfl
@[simp] theorem State.writeResultFlag_mem (x : Reg) (r : Byte) (c : Bool) :
    (s.writeResultFlag x r c).mem = s.mem := rfl
@[simp] theorem State.writeResultFlag_result (x : Reg) (r : Byte) (c : Bool) :
    (s.writeResultFlag x r c).result = s.result := rfl
@[simp] theorem State.writeResultFlag_display (x : Reg) (r : Byte) (c : Bool) :
    (s.writeResultFlag x r c).display = s.display := rfl
@[simp] theorem State.writeResultFlag_keyQueries (x : Reg) (r : Byte) (c : Bool) :
    (s.writeResultFlag x r c).keyQueries = s.keyQueries := rfl
@[simp] theorem State.writeResultFlag_env (x : Reg) (r : Byte) (c : Bool) :
    (s.writeResultFlag x r c).env = s.env := rfl
@[simp] theorem State.writeResultFlag_draws (x : Reg) (r : Byte) (c : Bool) :
    (s.writeResultFlag x r c).draws = s.draws := rfl
@[simp] theorem State.writeResultFlag_pending (x : Reg) (r : Byte) (c : Bool) :
    (s.writeResultFlag x r c).pending = s.pending := rfl
@[simp] theorem State.writeResultFlag_unscheduled (x : Reg) (r : Byte) (c : Bool) :
    (s.writeResultFlag x r c).unscheduled = s.unscheduled := rfl
@[simp] theorem State.writeResultFlag_params (x : Reg) (r : Byte) (c : Bool) :
    (s.writeResultFlag x r c).params = s.params := rfl

/-! ## `loadRegs` -/

@[simp] theorem State.loadRegs_v (x : Reg) (base : Nat) :
    (s.loadRegs x base).v = Vector.ofFn fun k => if k.val ≤ x.val then s.byteAt (base + k.val) else s.v[k.val] := rfl
@[simp] theorem State.loadRegs_i (x : Reg) (base : Nat) : (s.loadRegs x base).i = s.i := rfl
@[simp] theorem State.loadRegs_pc (x : Reg) (base : Nat) : (s.loadRegs x base).pc = s.pc := rfl
@[simp] theorem State.loadRegs_stack (x : Reg) (base : Nat) :
    (s.loadRegs x base).stack = s.stack := rfl
@[simp] theorem State.loadRegs_dt (x : Reg) (base : Nat) : (s.loadRegs x base).dt = s.dt := rfl
@[simp] theorem State.loadRegs_st (x : Reg) (base : Nat) : (s.loadRegs x base).st = s.st := rfl
@[simp] theorem State.loadRegs_residue (x : Reg) (base : Nat) :
    (s.loadRegs x base).residue = s.residue := rfl
@[simp] theorem State.loadRegs_mode (x : Reg) (base : Nat) : (s.loadRegs x base).mode = s.mode := rfl
@[simp] theorem State.loadRegs_mem (x : Reg) (base : Nat) : (s.loadRegs x base).mem = s.mem := rfl
@[simp] theorem State.loadRegs_result (x : Reg) (base : Nat) :
    (s.loadRegs x base).result = s.result := rfl
@[simp] theorem State.loadRegs_display (x : Reg) (base : Nat) :
    (s.loadRegs x base).display = s.display := rfl
@[simp] theorem State.loadRegs_keyQueries (x : Reg) (base : Nat) :
    (s.loadRegs x base).keyQueries = s.keyQueries := rfl
@[simp] theorem State.loadRegs_env (x : Reg) (base : Nat) : (s.loadRegs x base).env = s.env := rfl
@[simp] theorem State.loadRegs_draws (x : Reg) (base : Nat) :
    (s.loadRegs x base).draws = s.draws := rfl
@[simp] theorem State.loadRegs_pending (x : Reg) (base : Nat) :
    (s.loadRegs x base).pending = s.pending := rfl
@[simp] theorem State.loadRegs_unscheduled (x : Reg) (base : Nat) :
    (s.loadRegs x base).unscheduled = s.unscheduled := rfl
@[simp] theorem State.loadRegs_params (x : Reg) (base : Nat) :
    (s.loadRegs x base).params = s.params := rfl

/-! ## `resetWith` and `reset` -/

@[simp] theorem State.resetWith_v (p : Params) : (State.resetWith p).v = Vector.replicate 16 0 := rfl
@[simp] theorem State.resetWith_i (p : Params) : (State.resetWith p).i = 0 := rfl
@[simp] theorem State.resetWith_pc (p : Params) : (State.resetWith p).pc = 0x200 := rfl
@[simp] theorem State.resetWith_stack (p : Params) : (State.resetWith p).stack = [] := rfl
@[simp] theorem State.resetWith_dt (p : Params) : (State.resetWith p).dt = 0 := rfl
@[simp] theorem State.resetWith_st (p : Params) : (State.resetWith p).st = 0 := rfl
@[simp] theorem State.resetWith_residue (p : Params) : (State.resetWith p).residue = 0 := rfl
@[simp] theorem State.resetWith_mode (p : Params) : (State.resetWith p).mode = .uninitialized := rfl
@[simp] theorem State.resetWith_mem (p : Params) : (State.resetWith p).mem = [] := rfl
@[simp] theorem State.resetWith_result (p : Params) : (State.resetWith p).result = .ok := rfl
@[simp] theorem State.resetWith_display (p : Params) : (State.resetWith p).display = [] := rfl
@[simp] theorem State.resetWith_keyQueries (p : Params) : (State.resetWith p).keyQueries = [] := rfl
@[simp] theorem State.resetWith_draws (p : Params) : (State.resetWith p).draws = 0 := rfl
@[simp] theorem State.resetWith_pending (p : Params) : (State.resetWith p).pending = [] := rfl
@[simp] theorem State.resetWith_unscheduled (p : Params) : (State.resetWith p).unscheduled = .steps := rfl
@[simp] theorem State.resetWith_params (p : Params) : (State.resetWith p).params = p := rfl
theorem State.reset_eq : State.reset = State.resetWith Params.default := rfl

end Sys2Proof.Machine
end

