-- ==== Sys2Proof/Laws/Registers.lean ====
section
/-! SUPPORT. Reading the register file after each way of writing it (R21, R22, R139). -/

namespace Sys2Proof.Machine

variable (s : State)

theorem State.readV_writeV (x r : Reg) (b : Byte) :
    (s.writeV x b).readV r = if r = x then b else s.readV r := by
  by_cases h : r = x
  · subst h; simp [State.readV, State.writeV]
  · have : x.val ≠ r.val := fun e => h (Fin.ext e.symm)
    simp [State.readV, State.writeV, h, Vector.getElem_set_ne _ _ this]

@[simp] theorem State.readV_writeV_same (x : Reg) (b : Byte) : (s.writeV x b).readV x = b := by
  simp [State.readV_writeV]

theorem State.readV_writeFlag (r : Reg) (c : Bool) :
    (s.writeFlag c).readV r = if r = regVF then flagByte c else s.readV r := s.readV_writeV regVF r (flagByte c)

/-- The flag is the last write: it wins over the result where the destination is VF (R139). -/
theorem State.readV_writeResultFlag (x r : Reg) (b : Byte) (c : Bool) :
    (s.writeResultFlag x b c).readV r = if r = regVF then flagByte c else if r = x then b else s.readV r := by
  rw [State.writeResultFlag, State.readV_writeFlag, State.readV_writeV]

theorem State.readV_loadRegs (x r : Reg) (base : Nat) :
    (s.loadRegs x base).readV r = if r.val ≤ x.val then s.byteAt (base + r.val) else s.readV r := by
  simp [State.readV, State.loadRegs]

/-- An update that leaves `v` alone leaves every register alone. -/
theorem State.readV_congr {s t : State} (h : t.v = s.v) (r : Reg) : t.readV r = s.readV r := by
  simp [State.readV, h]

@[simp] theorem State.readV_writeI (w : Word) (q : Reg) : (s.writeI w).readV q = s.readV q := rfl
@[simp] theorem State.readV_jump (a : Word) (q : Reg) : (s.jump a).readV q = s.readV q := rfl
@[simp] theorem State.readV_advance (q : Reg) : s.advance.readV q = s.readV q := rfl
@[simp] theorem State.readV_skipIf (c : Bool) (q : Reg) : (s.skipIf c).readV q = s.readV q := rfl
@[simp] theorem State.readV_setDt (b : Byte) (q : Reg) : (s.setDt b).readV q = s.readV q := rfl
@[simp] theorem State.readV_setSt (b : Byte) (q : Reg) : (s.setSt b).readV q = s.readV q := rfl
@[simp] theorem State.readV_setMode (m : Mode) (q : Reg) : (s.setMode m).readV q = s.readV q := rfl
@[simp] theorem State.readV_store (base : Nat) (bs : List Byte) (q : Reg) : (s.store base bs).readV q = s.readV q := rfl
@[simp] theorem State.readV_push (a : Word) (q : Reg) : (s.push a).readV q = s.readV q := rfl
@[simp] theorem State.readV_dropTop (q : Reg) : s.dropTop.readV q = s.readV q := rfl
@[simp] theorem State.readV_emit (c : DisplayCommand) (q : Reg) : (s.emit c).readV q = s.readV q := rfl
@[simp] theorem State.readV_presentKey (k : Byte) (q : Reg) : (s.presentKey k).readV q = s.readV q := rfl
@[simp] theorem State.readV_withEnv (e : Env) (q : Reg) : (s.withEnv e).readV q = s.readV q := rfl
@[simp] theorem State.readV_withPending (ops : List Operation) (q : Reg) : (s.withPending ops).readV q = s.readV q := rfl
@[simp] theorem State.readV_withUnscheduled (u : Unscheduled) (q : Reg) : (s.withUnscheduled u).readV q = s.readV q := rfl
@[simp] theorem State.readV_drawn (q : Reg) : s.drawn.readV q = s.readV q := rfl
@[simp] theorem State.readV_returns (r : Result) (q : Reg) : (s.returns r).readV q = s.readV q := rfl

/-- The register file is told by its 16 reads. -/
theorem State.v_ext {s t : State} (h : ∀ r : Reg, t.readV r = s.readV r) : t.v = s.v := by
  apply Vector.ext
  intro k hk
  exact h ⟨k, hk⟩

theorem State.length_regsUpTo (x : Reg) : (s.regsUpTo x).length = regCount x := by
  have := x.isLt
  simp only [State.regsUpTo, regCount, List.length_take, Vector.length_toList]
  omega

theorem State.getElem_regsUpTo (x : Reg) (k : Nat) (h : k < (s.regsUpTo x).length) :
    (s.regsUpTo x)[k] = s.readV ⟨k, by have := s.length_regsUpTo x; have := x.isLt; simp only [regCount] at *; omega⟩ := by
  simp [State.regsUpTo, State.readV]

@[simp] theorem flagByte_true : flagByte true = 1 := rfl
@[simp] theorem flagByte_false : flagByte false = 0 := rfl

/-- A flag is written as 0 or 1 (R22). -/
theorem flagByte_le_one (c : Bool) : (flagByte c).toNat ≤ 1 := by cases c <;> decide

end Sys2Proof.Machine
end

