-- ==== Sys2Proof/Laws/Ops.lean ====
section
/-! SUPPORT. What each shared operation can do, said once: reading and storing bytes, access checks, faults, fetch (R53, R57,
R81, R207, R209). -/

namespace Sys2Proof.Machine

/-- The byte at an address is told by memory and the instance's font. -/
theorem State.byteAt_congr {s t : State} (hm : t.mem = s.mem) (hp : t.params = s.params) (a : Nat) :
    t.byteAt a = s.byteAt a := by
  rw [State.byteAt, State.byteAt, hm, hp]

/-- The word that pc points at is told by pc, memory and the instance's font. -/
theorem State.wordAtPc_congr {s t : State} (hpc : t.pc = s.pc) (hm : t.mem = s.mem) (hp : t.params = s.params) :
    t.wordAtPc = s.wordAtPc := by
  rw [State.wordAtPc, State.wordAtPc, hpc, State.byteAt_congr hm hp, State.byteAt_congr hm hp]

section

variable (s : State) (a : Nat)

@[simp] theorem State.byteAt_writeV (x : Reg) (b : Byte) : (s.writeV x b).byteAt a = s.byteAt a := rfl
@[simp] theorem State.byteAt_writeI (w : Word) : (s.writeI w).byteAt a = s.byteAt a := rfl
@[simp] theorem State.byteAt_jump (w : Word) : (s.jump w).byteAt a = s.byteAt a := rfl
@[simp] theorem State.byteAt_advance : s.advance.byteAt a = s.byteAt a := rfl
@[simp] theorem State.byteAt_skipIf (c : Bool) : (s.skipIf c).byteAt a = s.byteAt a := rfl
@[simp] theorem State.byteAt_setDt (b : Byte) : (s.setDt b).byteAt a = s.byteAt a := rfl
@[simp] theorem State.byteAt_setSt (b : Byte) : (s.setSt b).byteAt a = s.byteAt a := rfl
@[simp] theorem State.byteAt_setMode (m : Mode) : (s.setMode m).byteAt a = s.byteAt a := rfl
@[simp] theorem State.byteAt_push (w : Word) : (s.push w).byteAt a = s.byteAt a := rfl
@[simp] theorem State.byteAt_dropTop : s.dropTop.byteAt a = s.byteAt a := rfl
@[simp] theorem State.byteAt_emit (c : DisplayCommand) : (s.emit c).byteAt a = s.byteAt a := rfl
@[simp] theorem State.byteAt_presentKey (k : Byte) : (s.presentKey k).byteAt a = s.byteAt a := rfl
@[simp] theorem State.byteAt_withEnv (e : Env) : (s.withEnv e).byteAt a = s.byteAt a := rfl
@[simp] theorem State.byteAt_withPending (ops : List Operation) : (s.withPending ops).byteAt a = s.byteAt a := rfl
@[simp] theorem State.byteAt_withUnscheduled (u : Unscheduled) : (s.withUnscheduled u).byteAt a = s.byteAt a := rfl
@[simp] theorem State.byteAt_drawn : s.drawn.byteAt a = s.byteAt a := rfl
@[simp] theorem State.byteAt_returns (r : Result) : (s.returns r).byteAt a = s.byteAt a := rfl
@[simp] theorem State.byteAt_writeFlag (c : Bool) : (s.writeFlag c).byteAt a = s.byteAt a := rfl
@[simp] theorem State.byteAt_writeResultFlag (x : Reg) (r : Byte) (c : Bool) :
    (s.writeResultFlag x r c).byteAt a = s.byteAt a := rfl
@[simp] theorem State.byteAt_loadRegs (x : Reg) (base : Nat) : (s.loadRegs x base).byteAt a = s.byteAt a := rfl

end

/-- A store gives its bytes to its own addresses and leaves every other address alone (R56, R57). -/
theorem State.byteAt_store (s : State) (base : Nat) (bs : List Byte) (a : Nat) :
    (s.store base bs).byteAt a =
      if h : base ≤ a ∧ a - base < bs.length then bs[a - base]'h.2 else s.byteAt a :=
  Memory.read_writeBytes s.mem base bs a

theorem State.byteAt_store_outside (s : State) (base : Nat) (bs : List Byte) {a : Nat}
    (h : a < base ∨ base + bs.length ≤ a) : (s.store base bs).byteAt a = s.byteAt a :=
  Memory.read_writeBytes_outside s.mem base bs h

theorem State.byteAt_store_inside (s : State) (base : Nat) (bs : List Byte) (k : Nat) (h : k < bs.length) :
    (s.store base bs).byteAt (base + k) = bs[k] :=
  Memory.read_writeBytes_inside s.mem base bs k h

/-- A store inside the capacity keeps the canonical form (log 10). -/
theorem State.wf_store {s : State} (h : s.mem.wf s.params.fontRom = true) (base : Nat) (bs : List Byte)
    (hb : base + bs.length ≤ 4096) : (s.store base bs).mem.wf s.params.fontRom = true :=
  Memory.wf_writeBytes h base bs hb

theorem State.length_bytesAt (s : State) (base n : Nat) : (s.bytesAt base n).length = n :=
  Memory.length_readBytes s.mem base n

theorem State.getElem_bytesAt (s : State) (base n k : Nat) (h : k < (s.bytesAt base n).length) :
    (s.bytesAt base n)[k] = s.byteAt (base + k) :=
  Memory.getElem_readBytes s.mem base n k h

/-- What an address reads as after `Reset`, whatever the instance (R34, R51, R250). -/
theorem State.byteAt_opReset (s : State) (a : Nat) : (opReset s).byteAt a = Config.resetByte s.params.fontRom a := rfl

theorem Config.resetByte_font (rom : FontRom) {a : Nat} (h : a < 80) : Config.resetByte rom a = rom[a]'h := dif_pos h

theorem Config.resetByte_above (rom : FontRom) {a : Nat} (h : 80 ≤ a) : Config.resetByte rom a = 0 :=
  dif_neg (Nat.not_lt.mpr h)

/-- An access faults exactly where it has a byte and its last byte is outside the capacity; the record holds its lowest
outside address (R53, R56, R201). -/
theorem accessFault_eq (base n : Nat) :
    accessFault base n = if 0 < n ∧ base + n > 4096 then some (max base 4096) else none := by
  unfold accessFault Config.memSize
  by_cases h0 : n = 0
  · simp [h0]
  · by_cases h : base + n > 4096
    · rw [if_neg h0, if_pos (by omega), if_pos (by omega)]
    · rw [if_neg h0, if_neg (by omega), if_neg (by omega)]

theorem accessFault_none {base n : Nat} (h : base + n ≤ 4096) : accessFault base n = none := by
  rw [accessFault_eq, if_neg (by omega)]

theorem accessFault_some {base n : Nat} (h0 : 0 < n) (h : base + n > 4096) :
    accessFault base n = some (max base 4096) := by
  rw [accessFault_eq, if_pos ⟨h0, h⟩]

/-- A fault leaves everything but the mode (R207, R209). -/
theorem raise_eq (f : Fault) (s : State) : raise f s = .next (s.setMode (.halted f)) := rfl

/-- A checked access either halts with nothing done or goes on (R53, R56). -/
theorem withAccess_eq (base n : Nat) (s : State) (k : Answer) :
    withAccess base n s k =
      if 0 < n ∧ base + n > 4096 then .next (s.setMode (.halted (.outOfBounds (max base 4096) s.pc))) else k := by
  rw [withAccess, accessFault_eq]
  by_cases h : 0 < n ∧ base + n > 4096
  · rw [if_pos h, if_pos h]; rfl
  · rw [if_neg h, if_neg h]

/-- The fetch gives the word at pc where both its bytes exist, and faults elsewhere (R81). -/
theorem fetch_eq (s : State) :
    fetch s =
      if s.pc.toNat ≥ 4095 then .error (.outOfBounds (max s.pc.toNat 4096) s.pc) else .ok s.wordAtPc := by
  rw [fetch, accessFault_eq]
  by_cases h : s.pc.toNat ≥ 4095
  · rw [if_pos h, if_pos (by omega)]
  · rw [if_neg h, if_neg (by omega)]; rfl

/-- The result of a `Step` is told by the mode it leaves (R38, R92). -/
theorem answerStep_next (t : State) : answerStep (.next t) = .next (t.returns (stepResult t.mode)) := rfl

theorem answerStep_eq_next {o : Answer} {t : State} (h : answerStep o = .next t) :
    ∃ u, o = .next u ∧ t = u.returns (stepResult u.mode) := by
  cases o with
  | next u => exact ⟨u, rfl, by simpa [answerStep] using h.symm⟩
  | fault f => simp [answerStep] at h
  | refused r => simp [answerStep] at h

/-- One timer after `n` decrements: it never goes below 0 (R216, R217). -/
theorem agedTimer_toNat (t : Byte) (n : Nat) : (agedTimer t n).toNat = t.toNat - n := by
  have := t.isLt
  rw [agedTimer, BitVec.toNat_ofNat]
  omega

/-- Ageing in two parts is ageing once (R218). -/
theorem agedTimer_agedTimer (t : Byte) (n m : Nat) : agedTimer (agedTimer t n) m = agedTimer t (n + m) := by
  apply BitVec.eq_of_toNat_eq
  rw [agedTimer_toNat, agedTimer_toNat, agedTimer_toNat]
  omega

/-- The whole periods of a debt split in two are those of the debt, with the remainder carried, at any resolution (R216,
R218). -/
theorem periods_split (u q r : Nat) : q / u + (q % u + r) / u = (q + r) / u := by
  obtain rfl | hu := Nat.eq_zero_or_pos u
  · simp
  · conv_rhs => rw [← Nat.div_add_mod q u, Nat.add_assoc, Nat.mul_add_div hu]

/-- The font address of any byte, in 0 to 1275 (R152). -/
theorem fontAddress_toNat (b : Byte) : (fontAddress b).toNat = b.toNat * 5 := by
  have := b.isLt
  simp only [fontAddress, Config.fontBase, Config.glyphBytes, BitVec.toNat_ofNat]
  omega

end Sys2Proof.Machine
end

