-- ==== Sys2Proof/Laws/Exec.lean ====
section
/-! SUPPORT. What an instruction and a `Step` can do, said once (R92, R207, R208): halt on the one fault the instruction
has, or complete. -/

namespace Sys2Proof.Machine

/-- An instruction that raises its fault halts with nothing done (R207). -/
theorem exec_of_fault {i : Instr} {s : State} {f : Fault} (h : executeFault i s = some f) :
    exec i s = .next (s.setMode (.halted f)) := by
  cases i <;> simp only [executeFault] at h
  case ret =>
    split at h
    · rename_i hc
      cases h
      simp [exec, execRet, List.eq_nil_of_length_eq_zero hc, raise]
    · cases h
  case call =>
    split at h
    · rename_i hc
      cases h
      exact if_pos hc
    · cases h
  case drwVxVyN | ldBVx | ldMemVx | ldVxMem =>
    split at h
    · rename_i hc
      cases h
      simp only [exec, execDrwVxVyN, execLdBVx, execLdMemVx, execLdVxMem, withAccess_eq, State.base, regCount]
      rw [if_pos (by omega)]
    · cases h
  all_goals cases h

/-- A stack that is not empty has a last element. -/
theorem stack_eq_append {s : State} (h : s.stack.length ≠ 0) : ∃ rest a, s.stack = rest ++ [a] := by
  obtain ⟨l, a, hl⟩ := (List.eq_nil_or_concat s.stack).resolve_left fun e => h (by simp [e])
  exact ⟨l, a, by rw [hl, List.concat_eq_append]⟩

/-- `00EE` on a stack with a last element (R100). -/
theorem execRet_append {s : State} {rest : List Word} {a : Word} (h : s.stack = rest ++ [a]) :
    execRet s = .next (s.dropTop.jump a) := by
  simp [execRet, h]

/-- `2nnn` with room on the stack (R102). -/
theorem execCall_room {s : State} (nnn : Word) (h : s.stack.length < 16) :
    execCall nnn s = .next ((s.push (s.pc + 2)).jump nnn) :=
  if_neg (Nat.not_le.mpr h)

/-- A checked access with all its bytes in range goes on (R53). -/
theorem withAccess_fits {base n : Nat} {s : State} {k : Answer} (h : ¬ (0 < n ∧ base + n > 4096)) :
    withAccess base n s k = k := by
  rw [withAccess_eq, if_neg h]

/-- An instruction that raises no fault completes, and only `Fx0A` changes the mode (R40). -/
theorem exec_completes {i : Instr} {s : State} (h : executeFault i s = none) :
    ∃ t, exec i s = .next t ∧ (t.mode = s.mode ∨ ∃ x, i = .ldVxK x ∧ t.mode = .waitingForKey x) := by
  cases i <;> simp only [executeFault] at h
  case ret =>
    split at h
    · cases h
    · rename_i hc
      obtain ⟨rest, a, hl⟩ := stack_eq_append hc
      exact ⟨_, execRet_append hl, .inl rfl⟩
  case call nnn =>
    split at h
    · cases h
    · rename_i hc
      exact ⟨_, execCall_room nnn (by omega), .inl rfl⟩
  case ldVxK x => exact ⟨_, rfl, .inr ⟨x, rfl, rfl⟩⟩
  case drwVxVyN x y n =>
    split at h
    · cases h
    · rename_i hc
      exact ⟨_, withAccess_fits hc, .inl rfl⟩
  case ldBVx x =>
    split at h
    · cases h
    · rename_i hc
      exact ⟨_, withAccess_fits (by simp only [State.base]; omega), .inl rfl⟩
  case ldMemVx x | ldVxMem x =>
    split at h
    · cases h
    · rename_i hc
      exact ⟨_, withAccess_fits (by simp only [State.base, regCount]; omega), .inl rfl⟩
  all_goals exact ⟨_, rfl, .inl rfl⟩

/-- The fault of a `Step` is told by pc, I, the stack and memory (with the instance's font) alone. -/
theorem stepFault_congr {s t : State} (hpc : t.pc = s.pc) (hi : t.i = s.i) (hst : t.stack = s.stack)
    (hm : t.mem = s.mem) (hp : t.params = s.params) : stepFault t = stepFault s := by
  have hw : t.wordAtPc = s.wordAtPc := State.wordAtPc_congr hpc hm hp
  have he : ∀ i, executeFault i t = executeFault i s := by
    intro i
    cases i <;> simp only [executeFault, hpc, hi, hst]
  simp only [stepFault, hpc, hw, he]

/-- A running engine halts on the first fault, or executes the instruction that pc points at to its end (R92, R208). -/
theorem stepRunning_cases (s : State) :
    (∃ f, stepFault s = some f ∧ stepRunning s = .next (s.setMode (.halted f))) ∨
    (stepFault s = none ∧ ∃ i t, s.pc.toNat < 4095 ∧ decodeWord s.wordAtPc = some i ∧ executeFault i s = none ∧
      exec i s = .next t ∧ stepRunning s = .next t ∧
      (t.mode = s.mode ∨ ∃ x, i = .ldVxK x ∧ t.mode = .waitingForKey x)) := by
  by_cases hp : s.pc.toNat ≥ 4095
  · refine .inl ⟨.outOfBounds (max s.pc.toNat 4096) s.pc, by rw [stepFault, if_pos hp], ?_⟩
    simp only [stepRunning, fetch_eq, if_pos hp, raise_eq]
  · have hf : fetch s = .ok s.wordAtPc := by rw [fetch_eq, if_neg hp]
    cases hd : decodeWord s.wordAtPc with
    | none =>
      exact .inl ⟨.illegalInstruction s.wordAtPc s.pc, by simp only [stepFault, if_neg hp, hd],
        by simp only [stepRunning, hf, hd, raise_eq]⟩
    | some i =>
      have hs : stepRunning s = exec i s := by simp only [stepRunning, hf, hd]
      have hsf : stepFault s = executeFault i s := by simp only [stepFault, if_neg hp, hd]
      cases he : executeFault i s with
      | some f => exact .inl ⟨f, hsf.trans he, hs.trans (exec_of_fault he)⟩
      | none =>
        obtain ⟨t, ht, hm⟩ := exec_completes he
        exact .inr ⟨hsf.trans he, i, t, by omega, rfl, he, ht, hs.trans ht, hm⟩

/-- Where pc points at an instruction, a running engine executes it (R92). -/
theorem stepRunning_of_decode {s : State} {i : Instr} (hp : s.pc.toNat ≤ 4094)
    (hd : decodeWord s.wordAtPc = some i) : stepRunning s = exec i s := by
  have hf : fetch s = .ok s.wordAtPc := by rw [fetch_eq, if_neg (by omega)]
  simp only [stepRunning, hf, hd]

theorem opStep_running (e : Env) {s : State} (h : s.mode = .running) :
    opStep e s = answerStep (stepRunning (s.withEnv e)) := by
  simp only [opStep, h]

/-- Outside `Running` a `Step` changes nothing but the result (R38). -/
theorem opStep_other (e : Env) {s : State} (h : s.mode ≠ .running) :
    opStep e s = .next (s.returns (stepResult s.mode)) := by
  cases hm : s.mode <;> simp_all [opStep]

/-- What a `Step` can do: answer for its mode, halt on the first fault, or execute the instruction that pc points at
(R38, R92, R208). -/
theorem opStep_cases {e : Env} {s t : State} (h : opStep e s = .next t) :
    (s.mode ≠ .running ∧ t = s.returns (stepResult s.mode)) ∨
    (s.mode = .running ∧ ∃ f, stepFault s = some f ∧
      t = ((s.withEnv e).setMode (.halted f)).returns (.halted f)) ∨
    (s.mode = .running ∧ stepFault s = none ∧ ∃ i u, s.pc.toNat < 4095 ∧ decodeWord s.wordAtPc = some i ∧
      executeFault i (s.withEnv e) = none ∧ exec i (s.withEnv e) = .next u ∧ t = u.returns (stepResult u.mode) ∧
      (u.mode = .running ∨ ∃ x, i = .ldVxK x ∧ u.mode = .waitingForKey x)) := by
  have hse : stepFault (s.withEnv e) = stepFault s := stepFault_congr rfl rfl rfl rfl rfl
  by_cases hm : s.mode = .running
  · rw [opStep_running e hm] at h
    obtain ⟨u, hu, rfl⟩ := answerStep_eq_next h
    rw [← hse]
    obtain ⟨f, h1, h2⟩ | ⟨h1, i, t, hp, hd, hf, hx, h2, h3⟩ := stepRunning_cases (s.withEnv e)
    · rw [h2] at hu; cases hu
      exact .inr (.inl ⟨hm, f, h1, rfl⟩)
    · rw [h2] at hu; cases hu
      exact .inr (.inr ⟨hm, h1, i, _, hp, hd, hf, hx, rfl, by rwa [State.withEnv_mode, hm] at h3⟩)
  · rw [opStep_other e hm] at h; cases h
    exact .inl ⟨hm, rfl⟩

/-- The truth of the mode rests on V, I, pc, the stack, memory (with the instance's font) and on a timer only as it is 0. -/
theorem State.modeHolds_congr {s t : State} (h : s.modeHolds) (hv : t.v = s.v) (hi : t.i = s.i) (hpc : t.pc = s.pc)
    (hst : t.stack = s.stack) (hdt : s.dt = 0 → t.dt = 0) (hs : s.st = 0 → t.st = 0) (hm : t.mem = s.mem)
    (hp : t.params = s.params) (hmode : t.mode = s.mode) : t.modeHolds := by
  have e : stepFault t = stepFault s := stepFault_congr hpc hi hst hm hp
  have hw : t.wordAtPc = s.wordAtPc := State.wordAtPc_congr hpc hm hp
  unfold State.modeHolds at *
  rw [hmode]
  cases hsm : s.mode <;> simp only [hsm] at h ⊢
  · rw [hv, hi, hpc, hst]
    exact ⟨h.1, h.2.1, h.2.2.1, h.2.2.2.1, hdt h.2.2.2.2.1, hs h.2.2.2.2.2⟩
  · rw [hpc, hw]; exact h
  · rw [e]; exact h

/-- What a step of the machine can do: perform one operation, on a state that differs in the model's own schedule and
counter only (R10, R35, R36). -/
theorem step_cases (s : State) :
    ∃ (op : Operation) (rest : List Operation) (n : Nat), step s = perform op { s with pending := rest, draws := n } := by
  cases hp : s.pending with
  | cons op rest => exact ⟨op, rest, s.draws, by simp only [step, nextOperation, hp]; rfl⟩
  | nil => exact ⟨unscheduledOperation s.unscheduled s.draws, [], s.draws + 1, by
      simp only [step, nextOperation, hp, State.drawn]⟩

end Sys2Proof.Machine
end

