-- ==== Sys2Proof/Laws/PerInstr.lean ====
section
/-! SUPPORT. Statements about every instruction as syntax, one lemma per constructor: the word of an instruction matches
the instruction's row of the opcode map (R83, R86). -/

namespace Sys2Proof.Laws

/-! ## What each mask keeps of an encoded word -/

theorem append_and_append {n m : Nat} (a c : BitVec n) (b d : BitVec m) :
    (a ++ b) &&& (c ++ d) = (a &&& c) ++ (b &&& d) := by
  ext i h
  simp only [BitVec.getElem_and, BitVec.getElem_append]
  split <;> simp

theorem and_all (a : BitVec 4) : a &&& 0xF#4 = a := BitVec.and_allOnes

/-- Mask 0xF000 keeps the class (formats NNN, XNN, XYN). -/
theorem class_encodeXNN (c : BitVec 4) (x : Reg) (nn : Byte) :
    encodeXNN c x nn &&& 0xF000#16 = c ++ (0x0#4 ++ 0x00#8) := by
  rw [show (0xF000#16 : Word) = 0xF#4 ++ (0x0#4 ++ 0x00#8) by decide, encodeXNN, append_and_append, append_and_append,
    and_all, BitVec.and_zero, BitVec.and_zero]

theorem class_encodeXYN (c : BitVec 4) (x y : Reg) (n : BitVec 4) :
    encodeXYN c x y n &&& 0xF000#16 = c ++ (0x0#4 ++ (0x0#4 ++ 0x0#4)) := by
  rw [show (0xF000#16 : Word) = 0xF#4 ++ (0x0#4 ++ (0x0#4 ++ 0x0#4)) by decide, encodeXYN, append_and_append,
    append_and_append, append_and_append, and_all, BitVec.and_zero, BitVec.and_zero, BitVec.and_zero]

theorem class_encodeNNN (c : BitVec 4) (nnn : Word) : encodeNNN c nnn &&& 0xF000#16 = c ++ 0x000#12 := by
  rw [show (0xF000#16 : Word) = 0xF#4 ++ 0x000#12 by decide, encodeNNN, append_and_append, and_all, BitVec.and_zero]

/-- Mask 0xF0FF keeps the class and `nn` (format X). -/
theorem class_nn_encodeXNN (c : BitVec 4) (x : Reg) (nn : Byte) :
    encodeXNN c x nn &&& 0xF0FF#16 = c ++ (0x0#4 ++ nn) := by
  rw [show (0xF0FF#16 : Word) = 0xF#4 ++ (0x0#4 ++ BitVec.allOnes 8) by decide, encodeXNN, append_and_append,
    append_and_append, and_all, BitVec.and_zero, BitVec.and_allOnes]

/-- Mask 0xF00F keeps the class and `n` (format XY). -/
theorem class_n_encodeXYN (c : BitVec 4) (x y : Reg) (n : BitVec 4) :
    encodeXYN c x y n &&& 0xF00F#16 = c ++ (0x0#4 ++ (0x0#4 ++ n)) := by
  rw [show (0xF00F#16 : Word) = 0xF#4 ++ (0x0#4 ++ (0x0#4 ++ 0xF#4)) by decide, encodeXYN, append_and_append,
    append_and_append, append_and_append, and_all, and_all, BitVec.and_zero, BitVec.and_zero]

/-! ## The family -/

/-- The instruction's row of the opcode map, as (mask, match) (R86). -/
def EncodingRow.rowOf : Instr → Word × Word
  | .cls => (0xFFFF#16, 0x00E0#16)
  | .ret => (0xFFFF#16, 0x00EE#16)
  | .jp _ => (0xF000#16, 0x1000#16)
  | .call _ => (0xF000#16, 0x2000#16)
  | .seVxNn _ _ => (0xF000#16, 0x3000#16)
  | .sneVxNn _ _ => (0xF000#16, 0x4000#16)
  | .seVxVy _ _ => (0xF00F#16, 0x5000#16)
  | .ldVxNn _ _ => (0xF000#16, 0x6000#16)
  | .addVxNn _ _ => (0xF000#16, 0x7000#16)
  | .ldVxVy _ _ => (0xF00F#16, 0x8000#16)
  | .orVxVy _ _ => (0xF00F#16, 0x8001#16)
  | .andVxVy _ _ => (0xF00F#16, 0x8002#16)
  | .xorVxVy _ _ => (0xF00F#16, 0x8003#16)
  | .addVxVy _ _ => (0xF00F#16, 0x8004#16)
  | .subVxVy _ _ => (0xF00F#16, 0x8005#16)
  | .shrVx _ _ => (0xF00F#16, 0x8006#16)
  | .subnVxVy _ _ => (0xF00F#16, 0x8007#16)
  | .shlVx _ _ => (0xF00F#16, 0x800E#16)
  | .sneVxVy _ _ => (0xF00F#16, 0x9000#16)
  | .ldINnn _ => (0xF000#16, 0xA000#16)
  | .jpV0Nnn _ => (0xF000#16, 0xB000#16)
  | .rndVxNn _ _ => (0xF000#16, 0xC000#16)
  | .drwVxVyN _ _ _ => (0xF000#16, 0xD000#16)
  | .skpVx _ => (0xF0FF#16, 0xE09E#16)
  | .sknpVx _ => (0xF0FF#16, 0xE0A1#16)
  | .ldVxDt _ => (0xF0FF#16, 0xF007#16)
  | .ldVxK _ => (0xF0FF#16, 0xF00A#16)
  | .ldDtVx _ => (0xF0FF#16, 0xF015#16)
  | .ldStVx _ => (0xF0FF#16, 0xF018#16)
  | .addIVx _ => (0xF0FF#16, 0xF01E#16)
  | .ldFVx _ => (0xF0FF#16, 0xF029#16)
  | .ldBVx _ => (0xF0FF#16, 0xF033#16)
  | .ldMemVx _ => (0xF0FF#16, 0xF055#16)
  | .ldVxMem _ => (0xF0FF#16, 0xF065#16)

/-- The word of an instruction matches the instruction's row (R83: "An instruction matches a row of the opcode map when
`op & mask = match`"). -/
def EncodingRow.Statement (i : Instr) : Prop := matchesRow (encode i) (EncodingRow.rowOf i) = true

namespace EncodingRow

theorem cls : Statement .cls := rfl

theorem ret : Statement .ret := rfl

theorem jp (nnn : Word) : Statement (.jp nnn) :=
  beq_iff_eq.mpr ((class_encodeNNN _ _).trans rfl)

theorem call (nnn : Word) : Statement (.call nnn) :=
  beq_iff_eq.mpr ((class_encodeNNN _ _).trans rfl)

theorem seVxNn (x : Reg) (nn : Byte) : Statement (.seVxNn x nn) :=
  beq_iff_eq.mpr ((class_encodeXNN _ _ _).trans rfl)

theorem sneVxNn (x : Reg) (nn : Byte) : Statement (.sneVxNn x nn) :=
  beq_iff_eq.mpr ((class_encodeXNN _ _ _).trans rfl)

theorem seVxVy (x y : Reg) : Statement (.seVxVy x y) :=
  beq_iff_eq.mpr ((class_n_encodeXYN _ _ _ _).trans rfl)

theorem ldVxNn (x : Reg) (nn : Byte) : Statement (.ldVxNn x nn) :=
  beq_iff_eq.mpr ((class_encodeXNN _ _ _).trans rfl)

theorem addVxNn (x : Reg) (nn : Byte) : Statement (.addVxNn x nn) :=
  beq_iff_eq.mpr ((class_encodeXNN _ _ _).trans rfl)

theorem ldVxVy (x y : Reg) : Statement (.ldVxVy x y) :=
  beq_iff_eq.mpr ((class_n_encodeXYN _ _ _ _).trans rfl)

theorem orVxVy (x y : Reg) : Statement (.orVxVy x y) :=
  beq_iff_eq.mpr ((class_n_encodeXYN _ _ _ _).trans rfl)

theorem andVxVy (x y : Reg) : Statement (.andVxVy x y) :=
  beq_iff_eq.mpr ((class_n_encodeXYN _ _ _ _).trans rfl)

theorem xorVxVy (x y : Reg) : Statement (.xorVxVy x y) :=
  beq_iff_eq.mpr ((class_n_encodeXYN _ _ _ _).trans rfl)

theorem addVxVy (x y : Reg) : Statement (.addVxVy x y) :=
  beq_iff_eq.mpr ((class_n_encodeXYN _ _ _ _).trans rfl)

theorem subVxVy (x y : Reg) : Statement (.subVxVy x y) :=
  beq_iff_eq.mpr ((class_n_encodeXYN _ _ _ _).trans rfl)

theorem shrVx (x y : Reg) : Statement (.shrVx x y) :=
  beq_iff_eq.mpr ((class_n_encodeXYN _ _ _ _).trans rfl)

theorem subnVxVy (x y : Reg) : Statement (.subnVxVy x y) :=
  beq_iff_eq.mpr ((class_n_encodeXYN _ _ _ _).trans rfl)

theorem shlVx (x y : Reg) : Statement (.shlVx x y) :=
  beq_iff_eq.mpr ((class_n_encodeXYN _ _ _ _).trans rfl)

theorem sneVxVy (x y : Reg) : Statement (.sneVxVy x y) :=
  beq_iff_eq.mpr ((class_n_encodeXYN _ _ _ _).trans rfl)

theorem ldINnn (nnn : Word) : Statement (.ldINnn nnn) :=
  beq_iff_eq.mpr ((class_encodeNNN _ _).trans rfl)

theorem jpV0Nnn (nnn : Word) : Statement (.jpV0Nnn nnn) :=
  beq_iff_eq.mpr ((class_encodeNNN _ _).trans rfl)

theorem rndVxNn (x : Reg) (nn : Byte) : Statement (.rndVxNn x nn) :=
  beq_iff_eq.mpr ((class_encodeXNN _ _ _).trans rfl)

theorem drwVxVyN (x y : Reg) (n : Nat) : Statement (.drwVxVyN x y n) :=
  beq_iff_eq.mpr ((class_encodeXYN _ _ _ _).trans rfl)

theorem skpVx (x : Reg) : Statement (.skpVx x) :=
  beq_iff_eq.mpr ((class_nn_encodeXNN _ _ _).trans rfl)

theorem sknpVx (x : Reg) : Statement (.sknpVx x) :=
  beq_iff_eq.mpr ((class_nn_encodeXNN _ _ _).trans rfl)

theorem ldVxDt (x : Reg) : Statement (.ldVxDt x) :=
  beq_iff_eq.mpr ((class_nn_encodeXNN _ _ _).trans rfl)

theorem ldVxK (x : Reg) : Statement (.ldVxK x) :=
  beq_iff_eq.mpr ((class_nn_encodeXNN _ _ _).trans rfl)

theorem ldDtVx (x : Reg) : Statement (.ldDtVx x) :=
  beq_iff_eq.mpr ((class_nn_encodeXNN _ _ _).trans rfl)

theorem ldStVx (x : Reg) : Statement (.ldStVx x) :=
  beq_iff_eq.mpr ((class_nn_encodeXNN _ _ _).trans rfl)

theorem addIVx (x : Reg) : Statement (.addIVx x) :=
  beq_iff_eq.mpr ((class_nn_encodeXNN _ _ _).trans rfl)

theorem ldFVx (x : Reg) : Statement (.ldFVx x) :=
  beq_iff_eq.mpr ((class_nn_encodeXNN _ _ _).trans rfl)

theorem ldBVx (x : Reg) : Statement (.ldBVx x) :=
  beq_iff_eq.mpr ((class_nn_encodeXNN _ _ _).trans rfl)

theorem ldMemVx (x : Reg) : Statement (.ldMemVx x) :=
  beq_iff_eq.mpr ((class_nn_encodeXNN _ _ _).trans rfl)

theorem ldVxMem (x : Reg) : Statement (.ldVxMem x) :=
  beq_iff_eq.mpr ((class_nn_encodeXNN _ _ _).trans rfl)

end EncodingRow

end Sys2Proof.Laws
end

