-- ==== Sys2Proof/Tests/Slice0.lean ====
section
/-! SUPPORT. Tests of one step each, their expected values taken from 95_test_vectors.md (the vector's label stands in the
docstring) or from the examples of the rules, and one witness for the hypotheses of every statement that has some. -/

namespace Sys2Proof.Tests

open Sys2Proof Sys2Proof.Machine

/-! ## Well-formedness: an ill-formed instruction for each check -/

theorem test_wf_address : (Instr.jp 0x1000).wf = false ∧ (Instr.call 0x1000).wf = false ∧
    (Instr.ldINnn 0xFFFF).wf = false ∧ (Instr.jpV0Nnn 0x8000).wf = false ∧ (Instr.jp 0x0FFF).wf = true := by decide

theorem test_wf_count : (Instr.drwVxVyN 0 0 16).wf = false ∧ (Instr.drwVxVyN 0 0 15).wf = true := by decide

/-! ## Decoding: a word of every row, written out from the formats of R83 -/

theorem test_decode_control :
    decodeWord 0b0000000011101110#16 = some .ret ∧
    decodeWord 0b0001_0010_0011_0100#16 = some (.jp 0x0234) ∧
    decodeWord 0b0010_0010_0011_0100#16 = some (.call 0x0234) ∧
    decodeWord 0b1011_0011_0000_0001#16 = some (.jpV0Nnn 0x0301) := by decide

theorem test_decode_skips :
    decodeWord 0b0011_1010_0100_0010#16 = some (.seVxNn 0xA 0x42) ∧
    decodeWord 0b0100_1010_0100_0010#16 = some (.sneVxNn 0xA 0x42) ∧
    decodeWord 0b0101_0001_0010_0000#16 = some (.seVxVy 1 2) ∧
    decodeWord 0b1001_0001_0010_0000#16 = some (.sneVxVy 1 2) := by decide

theorem test_decode_immediate :
    decodeWord 0b0110_1100_0111_1111#16 = some (.ldVxNn 0xC 0x7F) ∧
    decodeWord 0b0111_0011_0000_0001#16 = some (.addVxNn 3 0x01) ∧
    decodeWord 0b1100_0010_0000_1111#16 = some (.rndVxNn 2 0x0F) := by decide

theorem test_decode_alu :
    decodeWord 0b1000_0001_0010_0000#16 = some (.ldVxVy 1 2) ∧
    decodeWord 0b1000_0001_0010_0001#16 = some (.orVxVy 1 2) ∧
    decodeWord 0b1000_0001_0010_0010#16 = some (.andVxVy 1 2) ∧
    decodeWord 0b1000_0001_0010_0011#16 = some (.xorVxVy 1 2) ∧
    decodeWord 0b1000_0001_0010_0100#16 = some (.addVxVy 1 2) ∧
    decodeWord 0b1000_0001_0010_0101#16 = some (.subVxVy 1 2) ∧
    decodeWord 0b1000_0001_0010_0110#16 = some (.shrVx 1 2) ∧
    decodeWord 0b1000_0001_0010_0111#16 = some (.subnVxVy 1 2) ∧
    decodeWord 0b1000_0001_0010_1110#16 = some (.shlVx 1 2) := by decide

theorem test_decode_index :
    decodeWord 0b1010_0010_1111_0000#16 = some (.ldINnn 0x02F0) ∧
    decodeWord 0b1111_0010_0001_1110#16 = some (.addIVx 2) ∧
    decodeWord 0b1111_0011_0010_1001#16 = some (.ldFVx 3) ∧
    decodeWord 0b1111_0001_0011_0011#16 = some (.ldBVx 1) ∧
    decodeWord 0b1111_1111_0101_0101#16 = some (.ldMemVx 15) ∧
    decodeWord 0b1111_0010_0110_0101#16 = some (.ldVxMem 2) := by decide

theorem test_decode_collaborators :
    decodeWord 0b0000_0000_1110_0000#16 = some .cls ∧
    decodeWord 0b1101_0000_0001_0101#16 = some (.drwVxVyN 0 1 5) ∧
    decodeWord 0b1110_0010_1001_1110#16 = some (.skpVx 2) ∧
    decodeWord 0b1110_0010_1010_0001#16 = some (.sknpVx 2) ∧
    decodeWord 0b1111_0001_0000_1010#16 = some (.ldVxK 1) := by decide

theorem test_decode_timers :
    decodeWord 0b1111_0011_0000_0111#16 = some (.ldVxDt 3) ∧
    decodeWord 0b1111_0011_0001_0101#16 = some (.ldDtVx 3) ∧
    decodeWord 0b1111_0011_0001_1000#16 = some (.ldStVx 3) := by decide

/-- I1 to I5 of part 2.9. -/
theorem test_decode_illegal_low :
    [0x0000#16, 0x00E1#16, 0x00EF#16, 0x00FE#16, 0x0123#16, 0x0FFF#16, 0x5121#16, 0x512F#16, 0x8128#16, 0x8129#16,
      0x812A#16, 0x812B#16, 0x812C#16, 0x812D#16, 0x812F#16, 0x9001#16, 0x912F#16].map decodeWord =
    List.replicate 17 none := by decide

/-- I6 and I7 of part 2.9. -/
theorem test_decode_illegal_high :
    [0xE29F#16, 0xE2A0#16, 0xE200#16, 0xE2FF#16, 0xF200#16, 0xF208#16, 0xF216#16, 0xF21F#16, 0xF230#16, 0xF256#16,
      0xF266#16, 0xF275#16, 0xF285#16, 0xF2FF#16].map decodeWord = List.replicate 14 none := by decide

/-- The rows of spec/opcode_table.json, numbered its way, reach the same decoder; too short a word does not. -/
theorem test_decode_table_word :
    decodeTableWord 16 0x8124 = some (.addVxVy 1 2) ∧ decodeTableWord 16 0x9001 = none ∧ decode [0x12] = .error .truncated := by
  decide

/-! ## One step -/

/-- A running engine at `pc` with bytes stored there, everything else as `Reset` leaves it. -/
def running (pc : Word) (bytes : List Byte) : State :=
  { State.reset with mode := .running, pc := pc, mem := Memory.writeBytes State.reset.params.fontRom [] pc.toNat bytes }

/-- The environment that answers 0 to everything. -/
def quiet : Env := { rnd := 0, keyDown := 0, collided := false }

/-- What the machine's step answers when the operation is the next one scheduled. -/
def after (op : Operation) (s : State) : Option State :=
  match step { s with pending := [op] } with
  | .next t => some t
  | .fault _ => none
  | .refused _ => none

/-- What a `Step` with the quiet environment answers. -/
def stepped (s : State) : Option State := after (.step quiet) s

/-- The default no-display hook answers no collision (R224). -/
theorem test_no_display : (Env.noDisplay { quiet with collided := true }).collided = false := by decide

/-- J7. -/
theorem test_ret_empty : (stepped (running 0x200 [0x00, 0xEE])).map (fun t => (t.pc, t.stack, t.result)) =
    some (0x200, [], .halted (.stackUnderflow 0x200)) := by decide

/-- S2, its second step, with one more address below. -/
theorem test_ret : (stepped { running 0x234 [0x00, 0xEE] with stack := [0x0111, 0x0202] }).map
    (fun t => (t.pc, t.stack)) = some (0x0202, [0x0111]) := by decide

/-- S1. -/
theorem test_jp : (stepped (running 0x200 [0x12, 0x34])).map (fun t => (t.pc, t.result)) = some (0x0234, .ok) := by decide

/-- J8: a call in the last word of memory. -/
theorem test_call : (stepped (running 0xFFE [0x23, 0x00])).map (fun t => (t.pc, t.stack)) = some (0x0300, [0x1000]) := by
  decide

/-- P4, its seventeenth step. -/
theorem test_call_full : (stepped { running 0x200 [0x22, 0x00] with stack := List.replicate 16 0x0202 }).map
    (fun t => (t.pc, t.depth, t.mode)) = some (0x200, 16, .halted (.stackOverflow 0x200)) := by decide

/-- J5. -/
theorem test_jp_v0 : (stepped ((running 0x200 [0xBF, 0xFF]).writeV 0 0xFF)).map (fun t => t.pc) = some 0x10FE := by decide

/-- J6: the offset is V0, not V5. -/
theorem test_jp_v0_not_vx : (stepped ((running 0x200 [0xB5, 0x00]).writeV 5 9)).map (fun t => t.pc) = some 0x0500 := by
  decide

/-- K1, K2. -/
theorem test_se_imm : (stepped ((running 0x200 [0x3A, 0x42]).writeV 10 0x42)).map (fun t => t.pc) = some 0x204 ∧
    (stepped ((running 0x200 [0x3A, 0x42]).writeV 10 0x43)).map (fun t => t.pc) = some 0x202 := by decide

/-- K11: a taken skip at the top of memory. -/
theorem test_se_imm_top : (stepped (running 0xFFE [0x30, 0x00])).map (fun t => (t.pc, t.result)) = some (0x1002, .ok) := by
  decide

/-- K3, K4. -/
theorem test_sne_imm : (stepped ((running 0x200 [0x4A, 0x42]).writeV 10 0x42)).map (fun t => t.pc) = some 0x202 ∧
    (stepped ((running 0x200 [0x4A, 0x42]).writeV 10 0x43)).map (fun t => t.pc) = some 0x204 := by decide

/-- K5, K6. -/
theorem test_se_reg : (stepped (((running 0x200 [0x51, 0x20]).writeV 1 7).writeV 2 7)).map (fun t => t.pc) = some 0x204 ∧
    (stepped (((running 0x200 [0x51, 0x20]).writeV 1 7).writeV 2 8)).map (fun t => t.pc) = some 0x202 := by decide

/-- K8, K9. -/
theorem test_sne_reg : (stepped (((running 0x200 [0x91, 0x20]).writeV 1 7).writeV 2 8)).map (fun t => t.pc) = some 0x204 ∧
    (stepped (((running 0x200 [0x91, 0x20]).writeV 1 7).writeV 2 7)).map (fun t => t.pc) = some 0x202 := by decide

/-- M1. -/
theorem test_ld_imm : (stepped ((running 0x200 [0x6C, 0x7F]).writeV 12 1)).map (fun t => (t.readV 12, t.pc)) =
    some (0x7F, 0x202) := by decide

/-- M4: the sum wraps and VF keeps its value. -/
theorem test_add_imm_no_flag : (stepped (((running 0x200 [0x73, 0x01]).writeV 3 0xFF).writeV 15 1)).map
    (fun t => (t.readV 3, t.readV 15)) = some (0, 1) := by decide

/-- M5: VF as an ordinary register. -/
theorem test_add_imm_vf : (stepped ((running 0x200 [0x7F, 0x10]).writeV 15 0xF8)).map (fun t => t.readV 15) =
    some 0x08 := by decide

/-- M7. -/
theorem test_rnd : (after (.step { quiet with rnd := 0xB7 }) (running 0x200 [0xC2, 0x0F])).map (fun t => t.readV 2) =
    some 0x07 := by decide

/-- A1. -/
theorem test_ld_reg : (stepped ((running 0x200 [0x81, 0x20]).writeV 2 0x9C)).map (fun t => (t.readV 1, t.readV 15)) =
    some (0x9C, 0) := by decide

/-- A2: VF is not reset. -/
theorem test_or : (stepped ((((running 0x200 [0x81, 0x21]).writeV 1 0x0F).writeV 2 0xF0).writeV 15 1)).map
    (fun t => (t.readV 1, t.readV 15)) = some (0xFF, 1) := by decide

/-- A3. -/
theorem test_and : (stepped ((((running 0x200 [0x81, 0x22]).writeV 1 0x3C).writeV 2 0x0F).writeV 15 1)).map
    (fun t => (t.readV 1, t.readV 15)) = some (0x0C, 1) := by decide

/-- A4. -/
theorem test_xor : (stepped ((((running 0x200 [0x81, 0x23]).writeV 1 0xFF).writeV 2 0x0F).writeV 15 1)).map
    (fun t => (t.readV 1, t.readV 15)) = some (0xF0, 1) := by decide

/-- S3. -/
theorem test_add : (stepped (((running 0x200 [0x81, 0x24]).writeV 1 200).writeV 2 100)).map
    (fun t => (t.readV 1, t.readV 15, t.readV 2, t.pc)) = some (44, 1, 100, 0x202) := by decide

/-- A11: with x = F the flag wins over the sum. -/
theorem test_add_into_vf : (stepped (((running 0x200 [0x8F, 0x24]).writeV 15 10).writeV 2 20)).map
    (fun t => t.readV 15) = some 0 := by decide

/-- S5. -/
theorem test_sub : (stepped (((running 0x200 [0x81, 0x25]).writeV 1 10).writeV 2 20)).map
    (fun t => (t.readV 1, t.readV 15)) = some (246, 0) := by decide

/-- A14: equal operands do not borrow. -/
theorem test_sub_equal : (stepped (((running 0x200 [0x81, 0x25]).writeV 1 0x37).writeV 2 0x37)).map
    (fun t => (t.readV 1, t.readV 15)) = some (0, 1) := by decide

/-- A19: the shift is logical and Vy is not used. -/
theorem test_shr : (stepped (((running 0x200 [0x81, 0x26]).writeV 1 0x80).writeV 2 0xFF)).map
    (fun t => (t.readV 1, t.readV 15, t.readV 2)) = some (0x40, 0, 0xFF) := by decide

/-- A22. -/
theorem test_shr_vf : (stepped ((running 0x200 [0x8F, 0x06]).writeV 15 2)).map (fun t => t.readV 15) = some 0 := by decide

/-- A24. -/
theorem test_subn : (stepped (((running 0x200 [0x81, 0x27]).writeV 1 20).writeV 2 10)).map
    (fun t => (t.readV 1, t.readV 15)) = some (246, 0) := by decide

/-- A25. -/
theorem test_subn_equal : (stepped (((running 0x200 [0x81, 0x27]).writeV 1 9).writeV 2 9)).map
    (fun t => (t.readV 1, t.readV 15)) = some (0, 1) := by decide

/-- A30: Vy is not used. -/
theorem test_shl : (stepped (((running 0x200 [0x81, 0x2E]).writeV 1 0x01).writeV 2 0x80)).map
    (fun t => (t.readV 1, t.readV 15)) = some (0x02, 0) := by decide

/-- A26. -/
theorem test_shl_out : (stepped ((running 0x200 [0x81, 0x0E]).writeV 1 0x81)).map (fun t => (t.readV 1, t.readV 15)) =
    some (0x02, 1) := by decide

/-- X1. -/
theorem test_ld_i : (stepped (running 0x200 [0xA2, 0xF0])).map (fun t => t.i) = some 0x02F0 := by decide

/-- X3. -/
theorem test_add_i : (stepped (((running 0x200 [0xF2, 0x1E]).writeI 0x0FFF).writeV 2 1)).map
    (fun t => (t.i, t.readV 15)) = some (0x1000, 1) := by decide

/-- X3b: the old VF is the addend. -/
theorem test_add_i_vf : (stepped (((running 0x200 [0xFF, 0x1E]).writeI 0x0100).writeV 15 5)).map
    (fun t => (t.i, t.readV 15)) = some (0x0105, 0) := by decide

/-- X4, X4a. -/
theorem test_font_address : (stepped ((running 0x200 [0xF3, 0x29]).writeV 3 0x0A)).map (fun t => t.i) = some 0x0032 ∧
    (stepped ((running 0x200 [0xF3, 0x29]).writeV 3 0xFF)).map (fun t => t.i) = some 0x04FB := by decide

/-- S7. -/
theorem test_bcd : (stepped (((running 0x200 [0xF1, 0x33]).writeV 1 234).writeI 0x300)).map
    (fun t => (t.bytesAt 0x300 4, t.i)) = some ([2, 3, 4, 0], 0x300) := by decide

/-- X9: one byte too high writes nothing. -/
theorem test_bcd_top : (stepped (((running 0x200 [0xF1, 0x33]).writeV 1 234).writeI 0x0FFE)).map
    (fun t => (t.bytesAt 0xFFE 2, t.mode)) = some ([0, 0], .halted (.outOfBounds 0x1000 0x200)) := by decide

/-- X11: the last byte of memory. -/
theorem test_store : (stepped (((running 0x200 [0xF0, 0x55]).writeV 0 0xAB).writeI 0x0FFF)).map
    (fun t => (t.byteAt 0xFFF, t.i)) = some (0xAB, 0x0FFF) := by decide

/-- X12. -/
theorem test_store_top : (stepped (((running 0x200 [0xF1, 0x55]).writeV 0 0xAB).writeI 0x0FFF)).map
    (fun t => (t.byteAt 0xFFF, t.mode)) = some (0, .halted (.outOfBounds 0x1000 0x200)) := by decide

/-- X15, with the default font. -/
theorem test_load : (stepped (running 0x200 [0xFF, 0x65])).map (fun t => t.v.toList) =
    some [0xF0, 0x90, 0x90, 0x90, 0xF0, 0x20, 0x60, 0x20, 0x20, 0x70, 0xF0, 0x10, 0xF0, 0x80, 0xF0, 0xF0] := by decide

/-- R155: registers above Vx and I are unchanged; the bytes read are the instruction's own last byte and the zeros after it. -/
theorem test_load_three : (stepped ({ running 0x200 [0xF2, 0x65] with i := 0x201 }.writeV 3 9)).map
    (fun t => (t.readV 0, t.readV 1, t.readV 2, t.readV 3, t.i)) = some (0x65, 0, 0, 9, 0x201) := by decide

/-- G1. -/
theorem test_cls : (stepped (running 0x200 [0x00, 0xE0])).map (fun t => (t.display, t.pc, t.readV 15)) =
    some ([.clear], 0x202, 0) := by decide

/-- G3. -/
theorem test_draw : (after (.step { quiet with collided := true })
    ((((running 0x200 [0xD0, 0x15]).writeV 0 5).writeV 1 6).writeI 0x00F)).map (fun t => (t.display, t.readV 15)) =
    some ([.draw 5 6 [0xF0, 0x10, 0xF0, 0x10, 0xF0]], 1) := by decide

/-- G5. -/
theorem test_draw_top : (stepped (((running 0x200 [0xD0, 0x12]).writeI 0x0FFF).writeV 15 7)).map
    (fun t => (t.display, t.readV 15, t.mode)) = some ([], 7, .halted (.outOfBounds 0x1000 0x200)) := by decide

/-- Y1, Y2. -/
theorem test_skp : (after (.step { quiet with keyDown := 0x80 }) ((running 0x200 [0xE2, 0x9E]).writeV 2 7)).map
    (fun t => (t.pc, t.keyQueries)) = some (0x204, [7]) ∧
    (stepped ((running 0x200 [0xE2, 0x9E]).writeV 2 7)).map (fun t => t.pc) = some 0x202 := by decide

/-- Y4, Y3. -/
theorem test_sknp : (after (.step { quiet with keyDown := 0x80 }) ((running 0x200 [0xE2, 0xA1]).writeV 2 7)).map
    (fun t => (t.pc, t.keyQueries)) = some (0x202, [7]) ∧
    (stepped ((running 0x200 [0xE2, 0xA1]).writeV 2 7)).map (fun t => t.pc) = some 0x204 := by decide

/-- S11, its first step. -/
theorem test_wait : (stepped (running 0x200 [0xF3, 0x0A])).map (fun t => (t.mode, t.isWaiting, t.pc, t.result)) =
    some (.waitingForKey 3, true, 0x200, .waiting) := by decide

/-- T1. -/
theorem test_read_delay : (stepped ((running 0x200 [0xF3, 0x07]).setDt 0x2A)).map (fun t => (t.readV 3, t.dt)) =
    some (0x2A, 0x2A) := by decide

/-- T2. -/
theorem test_set_delay : (stepped ((running 0x200 [0xF3, 0x15]).writeV 3 0xFF)).map (fun t => (t.dt, t.st)) =
    some (255, 0) := by decide

/-- T3, T4. -/
theorem test_set_sound : (stepped ((running 0x200 [0xF3, 0x18]).setSt 9)).map (fun t => (t.st, t.soundActive)) =
    some (0, false) ∧
    (stepped ((running 0x200 [0xF3, 0x18]).writeV 3 1)).map (fun t => (t.st, t.soundActive, t.dt)) = some (1, true, 0) := by
  decide

/-! ## Fetch faults and host operations -/

/-- S10. -/
theorem test_illegal : (stepped (running 0x200 [0x90, 0x01])).map (fun t => (t.pc, t.mode)) =
    some (0x200, .halted (.illegalInstruction 0x9001 0x200)) := by decide

/-- E1, E2, E3. -/
theorem test_fetch_top : (stepped (running 0xFFE [0x12, 0x00])).map (fun t => (t.pc, t.mode)) = some (0x200, .running) ∧
    (stepped (running 0xFFF [])).map (fun t => (t.pc, t.mode)) = some (0xFFF, .halted (.outOfBounds 0x1000 0x0FFF)) ∧
    (stepped (running 0x1002 [])).map (fun t => t.mode) = some (.halted (.outOfBounds 0x1002 0x1002)) := by decide

/-- H1: `Step` before `Initialize`. -/
theorem test_step_uninitialized : (stepped State.reset).map (fun t => (t.result, t.mode, t.pc)) =
    some (.invalidState, .uninitialized, 0x200) := by decide

/-- E4: `Step` after a halt. -/
theorem test_step_halted : (stepped { State.reset with mode := .halted (.stackOverflow 0x200) }).map (fun t => t.result) =
    some (.halted (.stackOverflow 0x200)) := by decide

/-- H5, and H4's refusal. -/
theorem test_load_image : (after (.load [0xAA] 0) State.reset).map (fun t => (t.byteAt 0, t.result)) =
    some (0xAA, .ok) ∧ (after (.load [] 0x1001) State.reset).map (fun t => t.result) = some .loadError := by decide

/-- T15 and H6. -/
theorem test_initialize : (after (.initializeAt 0x202) { State.reset with residue := 500, dt := 9 }).map
    (fun t => (t.pc, t.residue, t.dt, t.mode)) = some (0x202, 0, 0, .running) ∧
    (after (.initializeAt 0x300) (running 0x200 [])).map (fun t => (t.pc, t.result)) = some (0x200, .invalidState) := by
  decide

/-- T6, T8. -/
theorem test_tick : (after (.tick 1) { State.reset with residue := 960, dt := 5 }).map (fun t => (t.dt, t.residue)) =
    some (4, 20) ∧
    (after (.tick 1000) { State.reset with dt := 5, st := 200 }).map (fun t => (t.dt, t.st, t.residue)) =
    some (0, 140, 0) := by decide

/-- Y7, Y6. -/
theorem test_key_event : (after (.keyEvent 0xB) { State.reset with mode := .waitingForKey 3 }).map
    (fun t => (t.readV 3, t.pc, t.mode)) = some (0x0B, 0x202, .running) ∧
    (after (.keyEvent 3) (running 0x200 [])).map (fun t => (t.readV 1, t.pc, t.mode)) = some (0, 0x200, .running) := by
  decide

/-- R250: `Reset` out of `Halted`. -/
theorem test_reset : (after .reset { (running 0x222 []).writeV 4 4 with mode := .halted (.stackUnderflow 0x222) }).map
    (fun t => (t.readV 4, t.pc, t.mode, t.byteAt 0x4F, t.byteAt 0x50)) =
    some (0, 0x200, .uninitialized, 0x80, 0) := by decide

/-- An instance of the hardware with other glyphs and another resolution: whole seconds. -/
def otherInstance : Params := { fontRom := Vector.replicate 80 0x3C, timeUnitsPerSecond := ⟨1, by decide⟩ }

/-- R52: the first and the last glyph of the default font; another instance has its own. -/
theorem test_font : State.reset.bytesAt 0x000 5 = [0xF0, 0x90, 0x90, 0x90, 0xF0] ∧
    State.reset.bytesAt 0x04B 6 = [0xF0, 0x80, 0xF0, 0x80, 0x80, 0x00] ∧
    (State.resetWith otherInstance).bytesAt 0x04F 2 = [0x3C, 0x00] := by decide

/-- R216 with `U = 1`: a `Tick` of one unit is sixty periods. -/
theorem test_tick_other_resolution : (after (.tick 1) { State.resetWith otherInstance with dt := 200, st := 5 }).map
    (fun t => (t.dt, t.st, t.residue)) = some (140, 0, 0) := by decide

/-- R36: an operation from the schedule leaves the rest of it and what follows. -/
theorem test_schedule : (match step { State.reset with pending := [.tick 1, .reset], unscheduled := .anything } with
    | .next t => some (t.residue, t.pending, t.unscheduled, t.draws)
    | .fault _ => none
    | .refused _ => none) = some (60, [.reset], .anything, 0) := by decide

/-- The first step on a placed instruction runs it, also where anything was to follow. -/
theorem test_placed_over_anything :
    (match step ({ State.reset with pending := [.reset], unscheduled := .anything }.withFetchWord 16 0x6A55) with
    | .next t => some (t.readV 0xA, t.pc)
    | .fault _ => none
    | .refused _ => none) = some (0x55, 0x202) := by decide

/-- The first step on a placed instruction runs it, from reset. -/
theorem test_placed : (match step (State.reset.withFetchWord 16 0x6A55) with
    | .next t => some (t.readV 0xA, t.pc)
    | .fault _ => none
    | .refused _ => none) = some (0x55, 0x202) := by decide

/-! ## Witnesses: states and operands that meet the hypotheses of each statement -/

theorem witness_DecodeInvertsEncode : (Instr.jp 0x0FFF).wf = true ∧ (Instr.drwVxVyN 15 15 15).wf = true ∧
    (Instr.ldVxMem 15).wf = true := by decide

theorem witness_EncodeInvertsDecode : decodeWord 0xDFFF#16 = some (.drwVxVyN 15 15 15) := by decide

/-- The last word of memory, scheduled and not. -/
theorem witness_StepRunsTheDecodedInstruction :
    (∃ (s : State) (e : Env) (rest : List Operation) (i : Instr), s.mode = .running ∧ s.pending = .step e :: rest ∧
      s.pc.toNat ≤ 4094 ∧ decodeWord (wordOf (s.byteAt s.pc.toNat) (s.byteAt (s.pc.toNat + 1))) = some i) ∧
    (∃ (s : State) (i : Instr), s.mode = .running ∧ s.pending = [] ∧ s.unscheduled = .steps ∧
      s.pc.toNat ≤ 4094 ∧ decodeWord (wordOf (s.byteAt s.pc.toNat) (s.byteAt (s.pc.toNat + 1))) = some i) :=
  ⟨⟨{ running 0xFFE [0x12, 0x00] with pending := [.step quiet] }, quiet, [], .jp 0x200, by decide⟩,
    ⟨running 0xFFE [0x12, 0x00], .jp 0x200, by decide⟩⟩

theorem witness_FetchReadsTwoBytesOrFaults : (running 0xFFE []).pc.toNat ≤ 4094 ∧ (running 0xFFF []).pc.toNat = 4095 ∧
    4096 ≤ (running 0x1000 []).pc.toNat := by decide

theorem witness_IllegalInstructionHalts : ∃ (s : State) (op : Word), s.mode = .running ∧ s.pc.toNat ≤ 4094 ∧
    op = wordOf (s.byteAt s.pc.toNat) (s.byteAt (s.pc.toNat + 1)) ∧ decodeWord op = none :=
  ⟨running 0xFFE [0x90, 0x01], 0x9001, by decide⟩

theorem witness_StepOutsideRunningChangesNothing : State.reset.mode = .uninitialized ∧
    { State.reset with mode := .waitingForKey 15 }.mode = .waitingForKey 15 ∧
    { State.reset with mode := .halted (.stackOverflow 0) }.mode = .halted (.stackOverflow 0) := by decide

/-- A fault of each phase, and none. -/
theorem witness_FaultsArePreciseAndPrioritised : (running 0xFFF []).mode = .running ∧
    stepFault (running 0xFFF []) = some (.outOfBounds 0x1000 0x0FFF) ∧
    stepFault (running 0xFFE [0x00, 0x00]) = some (.illegalInstruction 0x0000 0x0FFE) ∧
    stepFault (running 0xFFE [0x00, 0xEE]) = some (.stackUnderflow 0x0FFE) ∧
    stepFault (running 0xFFE [0x00, 0xE0]) = none := by decide

theorem witness_ScheduleIsServedInOrder :
    (∃ (s : State) (op : Operation) (rest : List Operation), s.pending = op :: rest) ∧
    (State.reset.pending = [] ∧ State.reset.unscheduled = .steps) ∧
    (∃ s : State, s.pending = [] ∧ s.unscheduled = .anything) ∧
    (∃ (s t : State) (op : Operation), perform op s = .next t) :=
  ⟨⟨{ State.reset with pending := [.tick 1, .reset] }, .tick 1, [.reset], rfl⟩, by decide,
    ⟨{ State.reset with unscheduled := .anything }, by decide⟩, ⟨State.reset, _, .tick 1, rfl⟩⟩

theorem witness_PlacedInstructionIsStepped : decodeTableWord 16 0x00E0 = some .cls ∧
    decodeTableWord 16 0xFF65 = some (.ldVxMem 15) := by decide

/-- A mode that changes, and the premise of each of the clauses that say it does. -/
theorem witness_ModeTransitionsAreComplete :
    (∃ (op : Operation) (s t : State), perform op s = .next t ∧ t.mode ≠ s.mode) ∧
    State.reset.mode = .uninitialized ∧
    (∃ (s : State) (x : Reg), s.mode = .running ∧ fetch s = .ok s.wordAtPc ∧ decodeWord s.wordAtPc = some (.ldVxK x)) ∧
    { State.reset with mode := .waitingForKey 0 }.mode = .waitingForKey 0 ∧
    stepFault (running 0xFFF []) = some (.outOfBounds 0x1000 0x0FFF) :=
  ⟨⟨.initializeAt 0, State.reset, _, rfl, by decide⟩, rfl, ⟨running 0xFFE [0xFF, 0x0A], 15, rfl, rfl, by decide⟩, rfl,
    by decide⟩

/-- A running state with every bound at its limit. -/
def atTheLimits : State := { running 0xFFE [0x12, 0x00] with stack := List.replicate 16 0x1000, residue := 999 }

/-- A wait on an `Fx0A` in the last word of memory. -/
def waiting : State := { running 0xFFE [0xFF, 0x0A] with mode := .waitingForKey 15 }

/-- A halt on a fetch outside memory. -/
def halted : State := { running 0xFFF [] with mode := .halted (.outOfBounds 0x1000 0x0FFF) }

/-- States of the invariant in the modes `Running`, `WaitingForKey` and `Halted`, and a step from each. -/
theorem witness_StepKeepsTheInvariant : (atTheLimits.Inv ∧ waiting.Inv ∧ halted.Inv) ∧
    (stepped atTheLimits).isSome = true ∧ (stepped waiting).isSome = true ∧ (stepped halted).isSome = true :=
  ⟨⟨⟨by decide, by simp [atTheLimits], by decide, by decide, trivial⟩,
    ⟨by decide, by simp [waiting, running, State.reset, State.resetWith], by decide, by decide, by decide, by decide⟩,
    ⟨by decide, by simp [halted, running, State.reset, State.resetWith], by decide, by decide, show stepFault halted = _ by decide⟩⟩,
    by decide, by decide, by decide⟩

theorem witness_OnlyResetLeavesHalted : ∃ (op : Operation) (s : State) (f : Fault), s.mode = .halted f ∧ op ≠ .reset :=
  ⟨.step quiet, { State.reset with mode := .halted (.stackUnderflow 0x200) }, .stackUnderflow 0x200, by decide⟩

theorem witness_OnlyAKeyEventWakesTheEngine : ∃ (op : Operation) (s : State) (xw : Reg),
    s.mode = .waitingForKey xw ∧ op ≠ .reset ∧ ∀ k, op ≠ .keyEvent k :=
  ⟨.tick 1000, { State.reset with mode := .waitingForKey 15 }, 15, by decide, by decide, fun _ h => (by cases h)⟩

/-- H2 and H3: the largest image that fits, and one byte more. -/
theorem witness_LoadCopiesTheImageOrRefuses : State.reset.mode = .uninitialized ∧
    0x200 + (List.replicate 3584 (0 : Byte)).length ≤ 4096 ∧ 0x200 + (List.replicate 3585 (0 : Byte)).length > 4096 ∧
    (running 0x200 []).mode ≠ .uninitialized := by
  rw [List.length_replicate, List.length_replicate]
  decide

theorem witness_InitializeStartsASession : State.reset.mode = .uninitialized ∧
    (running 0x200 []).mode ≠ .uninitialized := by decide

theorem witness_BootOrderStartsTheImage : (List.replicate 3584 (0xAA : Byte)).length ≤ 3584 :=
  Nat.le_of_eq List.length_replicate

theorem witness_TickIsAdditive :
    (∃ (s t : State) (i : Instr) (a : Nat), (∀ x, i ≠ .ldDtVx x) ∧ (∀ x, i ≠ .ldStVx x) ∧
      exec i (opTick a s) = .next t) ∧ { State.reset with residue := 999 }.residue < 1000 :=
  ⟨⟨{ State.reset with residue := 960, dt := 5 }, _, .cls, 1, fun _ h => (by cases h), fun _ h => (by cases h), rfl⟩,
    by decide⟩

theorem witness_KeyEventEndsTheWait : { State.reset with mode := .waitingForKey 15 }.mode = .waitingForKey 15 ∧
    ∀ xw, (running 0x200 []).mode ≠ .waitingForKey xw := by decide

/-- For each element other than V0 to VF, pc and the residue an instruction that changes it. -/
theorem witness_ElementsBesideVAndPcHaveTheirWriters : ∃ s a b c d e f g h : State,
    (exec (.ldINnn 1) s = .next a ∧ a.i ≠ s.i) ∧ (exec (.call 0) s = .next b ∧ b.stack ≠ s.stack) ∧
    (exec (.ldDtVx 0) s = .next c ∧ c.dt ≠ s.dt) ∧ (exec (.ldStVx 0) s = .next d ∧ d.st ≠ s.st) ∧
    (exec (.ldMemVx 0) s = .next e ∧ e.mem ≠ s.mem) ∧ (exec .cls s = .next f ∧ f.display ≠ s.display) ∧
    (exec (.skpVx 0) s = .next g ∧ g.keyQueries ≠ s.keyQueries) ∧ (exec (.ldVxK 0) s = .next h ∧ h.mode ≠ s.mode) :=
  ⟨(running 0x200 []).writeV 0 9, _, _, _, _, _, _, _, _, ⟨rfl, by decide⟩, ⟨rfl, by decide⟩, ⟨rfl, by decide⟩,
    ⟨rfl, by decide⟩, ⟨rfl, by decide⟩, ⟨rfl, by decide⟩, ⟨rfl, by decide⟩, ⟨rfl, by decide⟩⟩

theorem witness_SevenInstructionsWriteTheFlag : ∃ s t : State, executeFault (.drwVxVyN 0 0 1) s = none ∧
    exec (.drwVxVyN 0 0 1) s = .next t ∧ t.readV regVF ≠ s.readV regVF :=
  ⟨{ running 0x200 [] with i := 0x0FFF, env := { quiet with collided := true } }, _, by decide, rfl, by decide⟩

/-- An instruction of each of the four behaviours, and a wait. -/
theorem witness_PcBehaviourOfEveryInstruction :
    (∃ s t : State, executeFault .ret s = none ∧ exec .ret s = .next t) ∧
    (∃ s t : State, executeFault .cls s = none ∧ exec .cls s = .next t) ∧
    (∃ s t : State, executeFault (.seVxVy 3 3) s = none ∧ exec (.seVxVy 3 3) s = .next t) ∧
    (∃ s t : State, executeFault (.ldVxK 0) s = none ∧ exec (.ldVxK 0) s = .next t) ∧
    { State.reset with mode := .waitingForKey 0 }.mode = .waitingForKey 0 :=
  ⟨⟨{ State.reset with stack := [0x1000] }, _, by decide, rfl⟩, ⟨State.reset, _, rfl, rfl⟩, ⟨State.reset, _, rfl, rfl⟩,
    ⟨State.reset, _, rfl, rfl⟩, rfl⟩

/-- One transfer that completes and one that halts. -/
theorem witness_ControlTransfersLeaveDataAlone :
    (∃ s t : State, exec (.call 0x0FFF) s = .next t ∧ ∀ f, t.mode ≠ .halted f) ∧
    (∃ s t : State, exec .ret s = .next t ∧ t.mode = .halted (.stackUnderflow 0x200)) :=
  ⟨⟨State.reset, _, rfl, fun _ h => (by cases h)⟩, ⟨State.reset, _, rfl, by decide⟩⟩

theorem witness_EnvironmentReachesOnlyItsInstruction : ∃ s t : State, exec .cls s = .next t ∧
    (∀ x nn, Instr.cls ≠ .rndVxNn x nn) ∧ (∀ x, Instr.cls ≠ .skpVx x) ∧ (∀ x, Instr.cls ≠ .sknpVx x) ∧
    (∀ x y n, Instr.cls ≠ .drwVxVyN x y n) ∧ (∀ x, Instr.cls ≠ .ldStVx x) :=
  ⟨State.reset, _, rfl, fun _ _ h => (by cases h), fun _ h => (by cases h), fun _ h => (by cases h),
    fun _ _ _ h => (by cases h), fun _ h => (by cases h)⟩

theorem witness_MemoryIsPlainStorage : (0xFFE : Nat) ≠ 0xFFF := by decide

theorem witness_CanonicalMemoryIsItsContents : Memory.wf Params.default.fontRom [(0, 0x00), (4095, 0x01)] = true ∧
    (∀ a, a < 4096 → Memory.read Params.default.fontRom [(4095, 0x01)] a = Memory.read Params.default.fontRom [(4095, 0x01)] a) ∧
    4095 < 4096 :=
  ⟨by decide, fun _ _ => rfl, by decide⟩

/-- The last place where an instruction can store over the next one. -/
theorem witness_StoresAreSeenByTheNextFetch : 0 < 4095 ∧ ∃ s t : State, (1 : Nat) ≤ (1 : Reg).val ∧
    s.pc.toNat ≤ 4092 ∧ s.i = s.pc + 2 ∧ s.i.toNat + (1 : Reg).val < 4096 ∧ exec (.ldMemVx 1) s = .next t :=
  ⟨by decide, { running 0xFFC [0xF1, 0x55] with i := 0xFFE }, _, by decide, by decide, by decide, by decide, rfl⟩

theorem witness_ReturnPopsTheLastAddress : { State.reset with stack := [1, 2] }.stack = [1] ++ [2] ∧
    State.reset.stack = [] := by decide

theorem witness_JumpSetsPc : ∃ s t : State, exec (.jp 0x0FFF) s = .next t := ⟨State.reset, _, rfl⟩

theorem witness_CallPushesTheReturnAddress :
    { State.reset with stack := List.replicate 15 0x0202 }.stack.length < 16 ∧
    { State.reset with stack := List.replicate 16 0x0202 }.stack.length = 16 := by decide

theorem witness_ReturnUndoesCall : ∃ s t u : State, s.stack.length < 16 ∧ exec (.call 0x234) s = .next t ∧
    u.stack = t.stack ∧ s.stack.length = 15 :=
  ⟨{ State.reset with stack := List.replicate 15 0x0202 }, _, _, by decide, rfl, rfl, by decide⟩

theorem witness_SkipsOnImmediate : State.reset.readV 15 = 0 ∧ State.reset.readV 15 ≠ 1 := by decide

theorem witness_SkipsOnRegisters : (State.reset.writeV 0 1).readV 15 = (State.reset.writeV 0 1).readV 14 ∧
    (State.reset.writeV 0 1).readV 0 ≠ (State.reset.writeV 0 1).readV 15 := by decide

/-- The hypotheses "another register" and "not VF" of `ImmediateLoadAndAdd`, `RandomByteIsMasked`, `CopyAndLogic`,
`AddLeavesTheCarry`, `SubtractLeavesNoBorrow`, `ShiftsLeaveTheBitShiftedOut`, `AddIndexFlagsTheOldSum` and
`ReadDelaySetSound`. -/
theorem witness_other_registers : ∃ x r : Reg, r ≠ x ∧ x ≠ regVF ∧ r ≠ regVF := ⟨14, 0, by decide⟩

/-- X8 and X9: the highest I that fits, and one more. -/
theorem witness_BcdStoresThreeDigits : { State.reset with i := 0x0FFD }.i.toNat + 2 < 4096 ∧
    4096 ≤ { State.reset with i := 0x0FFE }.i.toNat + 2 ∧ (0xFFC < 0x0FFD ∨ 0x0FFD + 3 ≤ 0xFFC) := by decide

theorem witness_StoreRegistersUpToVx : { State.reset with i := 0x0FF0 }.i.toNat + (15 : Reg).val < 4096 ∧
    4096 ≤ { State.reset with i := 0x0FF1 }.i.toNat + (15 : Reg).val ∧ (15 : Reg) ≤ 15 := by decide

theorem witness_LoadRegistersUpToVx : { State.reset with i := 0x0FFF }.i.toNat + (0 : Reg).val < 4096 ∧
    4096 ≤ { State.reset with i := 0x0FFF }.i.toNat + (1 : Reg).val ∧ (0 : Reg) ≤ 0 ∧ (0 : Reg) < 1 := by decide

theorem witness_StoreThenLoadRoundTrip : ∃ s t : State, s.i.toNat + (5 : Reg).val < 4096 ∧
    exec (.ldMemVx 5) s = .next t :=
  ⟨{ State.reset with i := 0x0300 }, _, by decide, rfl⟩

/-- G7, G6 and G5. -/
theorem witness_DrawEmitsTheSprite : ((0 = 0) ∨ { State.reset with i := 0xFFFF }.i.toNat + 0 ≤ 4096) ∧
    ((1 = 0) ∨ { State.reset with i := 0x0FFF }.i.toNat + 1 ≤ 4096) ∧
    (0 < 2 ∧ 4096 < { State.reset with i := 0x0FFF }.i.toNat + 2) := by decide

/-- Both answers, for the highest index. -/
theorem witness_KeySkipsFollowTheKeypad :
    { quiet with keyDown := 1#256 <<< 255 }.keyDown.getLsbD ((State.reset.writeV 0 255).readV 0).toNat = true ∧
    quiet.keyDown.getLsbD ((State.reset.writeV 0 255).readV 0).toNat = false := by decide

theorem witness_WaitForKeyChangesOnlyTheMode : ∃ s : State, s.mode = .running ∧ fetch s = .ok s.wordAtPc ∧
    decodeWord s.wordAtPc = some (.ldVxK 15) := ⟨running 0xFFE [0xFF, 0x0A], rfl, rfl, by decide⟩

theorem witness_SetDelayKeepsTheDebt : ∃ s t : State, exec (.ldDtVx 0) s = .next t ∧ s.readV 0 ≠ 0 :=
  ⟨State.reset.writeV 0 2, _, rfl, by decide⟩

end Sys2Proof.Tests
end

section
/-! SUPPORT. The statements of the scope family: what `Reset` leaves, which fields no instruction writes, that an
instruction sees of them only what it asks for, and that no operation touches the schedule. -/

namespace Sys2Proof.Machine

/-! ## The fields that no instruction writes -/

/-- The state with the fields that no instruction writes taken from another state. -/
def State.withUnwrittenOf (s o : State) : State :=
  { s with
    residue := o.residue
    result := o.result
    env := o.env
    draws := o.draws
    pending := o.pending
    unscheduled := o.unscheduled
    params := o.params }

@[simp] theorem State.withUnwrittenOf_self (s : State) : s.withUnwrittenOf s = s := rfl
@[simp] theorem State.withUnwrittenOf_stack (s o : State) : (s.withUnwrittenOf o).stack = s.stack := rfl

/-- An answer with its next state changed by `u`. -/
def mapNext (u : State → State) : Answer → Answer
  | .next t => .next (u t)
  | .fault f => .fault f
  | .refused r => .refused r

/-- Two environments give an instruction the same answer where it asks for one: `Cxnn` for the random byte, `Ex9E` and
`ExA1` for the keypad, `Dxyn` for the display (R9). -/
structure Env.AgreeOn (i : Instr) (e e' : Env) : Prop where
  rnd : ∀ x nn, i = .rndVxNn x nn → e.rnd = e'.rnd
  keyDown_skp : ∀ x, i = .skpVx x → e.keyDown = e'.keyDown
  keyDown_sknp : ∀ x, i = .sknpVx x → e.keyDown = e'.keyDown
  collided : ∀ x y n, i = .drwVxVyN x y n → e.collided = e'.collided

theorem Env.agreeOn_refl (i : Instr) (e : Env) : Env.AgreeOn i e e :=
  ⟨fun _ _ _ => rfl, fun _ _ => rfl, fun _ _ => rfl, fun _ _ _ _ => rfl⟩

/-- `2nnn` halts at the full depth and else pushes and jumps (R102). -/
theorem execCall_eq (nnn : Word) (s : State) :
    execCall nnn s =
      if s.stack.length ≥ 16 then .next (s.setMode (.halted (.stackOverflow s.pc)))
      else .next ((s.push (s.pc + 2)).jump nnn) := rfl

/-- An instruction acts alike on states that differ only in fields no instruction writes, where the parameters are the
same and the environments agree on what the instruction asks for. -/
theorem exec_withUnwrittenOf (i : Instr) (s o : State) (hp : o.params = s.params) (he : Env.AgreeOn i o.env s.env) :
    exec i (s.withUnwrittenOf o) = mapNext (·.withUnwrittenOf o) (exec i s) := by
  -- Taken apart, `o` gives its parameters and answers as variables, which `cases` replaces by those of `s`.
  obtain ⟨_, _, _, _, _, _, _, _, _, _, _, _, ⟨_, _, _⟩, _, _, _, _⟩ := o
  cases hp
  cases i
  case ret =>
    simp only [exec, execRet, State.withUnwrittenOf_stack]
    split <;> rfl
  case call | ldBVx | ldMemVx | ldVxMem =>
    simp only [exec, execCall_eq, execLdBVx, execLdMemVx, execLdVxMem, withAccess_eq, apply_ite (mapNext _)]
    rfl
  case drwVxVyN x y n =>
    cases he.collided x y n rfl
    simp only [exec, execDrwVxVyN, withAccess_eq, apply_ite (mapNext _)]
    rfl
  case rndVxNn x nn => cases he.rnd x nn rfl; rfl
  case skpVx x => cases he.keyDown_skp x rfl; rfl
  case sknpVx x => cases he.keyDown_sknp x rfl; rfl
  all_goals rfl

/-- What no instruction writes stays. -/
theorem exec_keeps_unwritten {i : Instr} {s t : State} (h : exec i s = .next t) : t.withUnwrittenOf s = t := by
  have hs := exec_withUnwrittenOf i s s rfl (Env.agreeOn_refl i s.env)
  rw [State.withUnwrittenOf_self, h] at hs
  exact (Host.Outcome.next.inj hs).symm

/-- The environment reaches an instruction only through the answers it asks for (R9). -/
theorem exec_withEnv {i : Instr} {s t : State} {e : Env} (h : exec i s = .next t) (he : Env.AgreeOn i e s.env) :
    exec i (s.withEnv e) = .next (t.withEnv e) := by
  have hu := exec_withUnwrittenOf i s (s.withEnv e) rfl he
  rw [h] at hu
  calc exec i (s.withEnv e) = .next (t.withUnwrittenOf (s.withEnv e)) := hu
    _ = .next ((t.withUnwrittenOf s).withEnv e) := rfl
    _ = .next (t.withEnv e) := by rw [exec_keeps_unwritten h]

/-- No instruction reads ST, and only `Fx18` writes it (R26). -/
theorem exec_setSt (i : Instr) (s : State) (b : Byte) (hi : ∀ x, i ≠ .ldStVx x) :
    exec i (s.setSt b) = mapNext (·.setSt b) (exec i s) := by
  cases i
  case ldStVx x => exact absurd rfl (hi x)
  case ret =>
    simp only [exec, execRet, State.setSt_stack]
    split <;> rfl
  case call | drwVxVyN | ldBVx | ldMemVx | ldVxMem =>
    simp only [exec, execCall_eq, execDrwVxVyN, execLdBVx, execLdMemVx, execLdVxMem, withAccess_eq,
      apply_ite (mapNext _)]
    rfl
  all_goals rfl

/-- Settles O30: the three answers of the environment by `exec_withEnv`, ST by `exec_setSt`. -/
theorem environmentReachesOnlyItsInstruction : Obligations.EnvironmentReachesOnlyItsInstruction := by
  intro i s t h
  refine ⟨fun b hi => exec_withEnv h ?_, fun d hskp hsknp => exec_withEnv h ?_, fun c hi => exec_withEnv h ?_,
    fun b hi => (exec_setSt i s b hi).trans (congrArg (mapNext (·.setSt b)) h)⟩
  · exact ⟨fun x nn e => absurd e (hi x nn), fun _ _ => rfl, fun _ _ => rfl, fun _ _ _ _ => rfl⟩
  · exact ⟨fun _ _ _ => rfl, fun x e => absurd e (hskp x), fun x e => absurd e (hsknp x), fun _ _ _ _ => rfl⟩
  · exact ⟨fun _ _ _ => rfl, fun _ _ => rfl, fun _ _ => rfl, fun x y n e => absurd e (hi x y n)⟩

/-! ## The schedule -/

/-- Both states have the same schedule, the same to follow it, the same counter and the same parameters. -/
structure SameSchedule (s t : State) : Prop where
  pending : t.pending = s.pending
  unscheduled : t.unscheduled = s.unscheduled
  draws : t.draws = s.draws
  params : t.params = s.params

theorem SameSchedule.of_exec {i : Instr} {s t : State} (h : exec i s = .next t) : SameSchedule s t := by
  rw [← exec_keeps_unwritten h]
  exact ⟨rfl, rfl, rfl, rfl⟩

theorem SameSchedule.of_opLoad (image : List Byte) (base : Nat) (s : State) :
    SameSchedule s (opLoad image base s) := by
  unfold opLoad
  split
  · split <;> exact ⟨rfl, rfl, rfl, rfl⟩
  all_goals exact ⟨rfl, rfl, rfl, rfl⟩

theorem SameSchedule.of_opInitialize (a : Word) (s : State) : SameSchedule s (opInitialize a s) := by
  unfold opInitialize
  split <;> exact ⟨rfl, rfl, rfl, rfl⟩

theorem SameSchedule.of_opKeyEvent (k : Key) (s : State) : SameSchedule s (opKeyEvent k s) := by
  unfold opKeyEvent
  split <;> exact ⟨rfl, rfl, rfl, rfl⟩

theorem SameSchedule.of_opStep {e : Env} {s t : State} (h : opStep e s = .next t) : SameSchedule s t := by
  obtain ⟨-, rfl⟩ | ⟨-, f, -, rfl⟩ | ⟨-, -, i, u, -, -, -, hx, rfl, -⟩ := opStep_cases h
  · exact ⟨rfl, rfl, rfl, rfl⟩
  · exact ⟨rfl, rfl, rfl, rfl⟩
  · obtain ⟨hpending, hunscheduled, hdraws, hparams⟩ := SameSchedule.of_exec hx
    exact ⟨hpending, hunscheduled, hdraws, hparams⟩

/-- No operation issues another, and none changes the parameters (log 1, log 11, log 12, log 24). -/
theorem SameSchedule.of_perform {op : Operation} {s t : State} (h : perform op s = .next t) : SameSchedule s t := by
  cases op with
  | step e => exact SameSchedule.of_opStep h
  | reset => cases h; exact ⟨rfl, rfl, rfl, rfl⟩
  | load image base => cases h; exact SameSchedule.of_opLoad image base s
  | initializeAt a => cases h; exact SameSchedule.of_opInitialize a s
  | tick elapsed => cases h; exact ⟨rfl, rfl, rfl, rfl⟩
  | keyEvent k => cases h; exact SameSchedule.of_opKeyEvent k s

/-- A step serves the first operation of the schedule (log 1). -/
theorem step_of_pending_cons {s : State} {op : Operation} {rest : List Operation} (h : s.pending = op :: rest) :
    step s = perform op (s.withPending rest) := by
  rw [step, nextOperation, h]

/-- With nothing scheduled a step draws an operation (log 24). -/
theorem step_of_pending_nil {s : State} {op : Operation} (h : s.pending = [])
    (hop : unscheduledOperation s.unscheduled s.draws = op) : step s = perform op s.drawn := by
  rw [step, nextOperation, h, ← hop]

/-- Settles O12: which operation a step performs, and that no operation changes what decides the next. -/
theorem scheduleIsServedInOrder : Obligations.ScheduleIsServedInOrder := by
  refine ⟨fun s op rest h => step_of_pending_cons h, fun s h hu => step_of_pending_nil h ?_,
    fun s h hu => step_of_pending_nil h ?_, fun s t op h => ?_⟩
  · rw [hu]; rfl
  · rw [hu]; rfl
  · obtain ⟨hpending, hunscheduled, hdraws, hparams⟩ := SameSchedule.of_perform h
    exact ⟨hpending, hunscheduled, hdraws, hparams⟩

/-! ## Reset -/

/-- Every register is zero after `Reset` (D10). -/
theorem State.readV_opReset (s : State) (r : Reg) : (opReset s).readV r = 0 :=
  Vector.getElem_replicate r.isLt

/-- Settles O19: memory by `State.byteAt_opReset`, every other element by the definition of `opReset`. -/
theorem resetPutsEveryElementAtItsResetValue : Obligations.ResetPutsEveryElementAtItsResetValue := by
  intro s
  have font (a : Nat) (h : a < 80) : (opReset s).byteAt a = s.params.fontRom[a]'h :=
    (s.byteAt_opReset a).trans (Config.resetByte_font _ h)
  have zero (a : Nat) (h : 80 ≤ a) (_ : a < 4096) : (opReset s).byteAt a = 0 :=
    (s.byteAt_opReset a).trans (Config.resetByte_above _ h)
  exact ⟨opReset s, rfl, s.readV_opReset, rfl, rfl, rfl, rfl, rfl, rfl, rfl, rfl, font, zero, rfl, rfl, rfl, rfl⟩

end Sys2Proof.Machine
end

section
/-! SUPPORT. The statements of the state family: what an instruction can do to the state, said once as `InstrEffect`, and
from it who writes each element, who writes VF, and that every step keeps the invariant. -/

namespace Sys2Proof.Machine

/-! ## What an instruction can do -/

/-- The instructions that write VF as a flag (R22). -/
def WritesFlag (i : Instr) : Prop :=
  ∃ x y n, i ∈ [.addVxVy x y, .subVxVy x y, .shrVx x y, .subnVxVy x y, .shlVx x y, .drwVxVyN x y n, .addIVx x]

/-- The instructions that name a register as the destination of one byte, or of the last of several (`Fx65`). -/
def NamesDestination (i : Instr) (x : Reg) : Prop :=
  ∃ y nn, i ∈ [.ldVxNn x nn, .addVxNn x nn, .rndVxNn x nn, .ldVxVy x y, .orVxVy x y, .andVxVy x y, .xorVxVy x y,
    .ldVxDt x, .ldVxMem x]

/-- What an instruction can make of a state: one constructor for each set of elements that instructions write together
(R20, column "Written by"). The values written are the matter of each instruction's own statement. -/
inductive InstrEffect (i : Instr) (s : State) : State → Prop
  | jump (pc : Word) : InstrEffect i s (s.jump pc)
  | register (x : Reg) (b : Byte) (names : NamesDestination i x) : InstrEffect i s (s.writeV x b).advance
  | registers (x : Reg) (names : NamesDestination i x) : InstrEffect i s (s.loadRegs x s.base).advance
  | resultFlag (x : Reg) (r : Byte) (c : Bool) (flags : WritesFlag i) :
      InstrEffect i s (s.writeResultFlag x r c).advance
  | index (w : Word) (hi : (∃ nnn, i = .ldINnn nnn) ∨ ∃ x, i = .ldFVx x) : InstrEffect i s (s.writeI w).advance
  | indexFlag (x : Reg) (hi : i = .addIVx x) (w : Word) (c : Bool) :
      InstrEffect i s ((s.writeI w).writeFlag c).advance
  | pop (hi : i = .ret) (rest : List Word) (a : Word) (hst : s.stack = rest ++ [a]) :
      InstrEffect i s (s.dropTop.jump a)
  | push (nnn : Word) (hi : i = .call nnn) (room : s.stack.length < 16) :
      InstrEffect i s ((s.push (s.pc + 2)).jump nnn)
  | delay (x : Reg) (hi : i = .ldDtVx x) (b : Byte) : InstrEffect i s (s.setDt b).advance
  | sound (x : Reg) (hi : i = .ldStVx x) (b : Byte) : InstrEffect i s (s.setSt b).advance
  | memory (bs : List Byte) (hi : (∃ x, i = .ldBVx x) ∨ ∃ x, i = .ldMemVx x) (fits : s.base + bs.length ≤ 4096) :
      InstrEffect i s (s.store s.base bs).advance
  | clear (hi : i = .cls) : InstrEffect i s (s.emit .clear).advance
  | draw (x y : Reg) (n : Nat) (hi : i = .drwVxVyN x y n) (d : DisplayCommand) (c : Bool) :
      InstrEffect i s ((s.emit d).writeFlag c).advance
  | keypad (hi : (∃ x, i = .skpVx x) ∨ ∃ x, i = .sknpVx x) (k : Byte) (c : Bool) :
      InstrEffect i s ((s.presentKey k).skipIf c)
  | wait (x : Reg) (hi : i = .ldVxK x) : InstrEffect i s (s.setMode (.waitingForKey x))
  | fault (f : Fault) (hf : executeFault i s = some f) : InstrEffect i s (s.setMode (.halted f))

/-- A fault that was not raised had its condition false. -/
theorem not_of_guard_eq_none {p : Prop} [Decidable p] {f : Fault} (h : (if p then some f else none) = none) : ¬ p := by
  simpa using h

/-- An instruction that raises no fault has one of the other effects; `Fx33` and `Fx55` store inside the capacity. -/
theorem exec_effect_of_no_fault {i : Instr} {s t : State} (hf : executeFault i s = none) (h : exec i s = .next t) :
    InstrEffect i s t := by
  cases i
  case ret =>
    obtain ⟨rest, a, hst⟩ := stack_eq_append (not_of_guard_eq_none hf)
    rw [← Host.Outcome.next.inj ((execRet_append hst).symm.trans h)]
    exact .pop rfl rest a hst
  case call nnn =>
    have room : s.stack.length < 16 := Nat.not_le.mp (not_of_guard_eq_none hf)
    rw [← Host.Outcome.next.inj ((execCall_room nnn room).symm.trans h)]
    exact .push nnn rfl room
  case drwVxVyN x y n =>
    rw [← Host.Outcome.next.inj ((withAccess_fits (not_of_guard_eq_none hf)).symm.trans h)]
    exact .draw x y n rfl _ _
  case ldBVx x =>
    have fits : s.base + 3 ≤ 4096 := Nat.not_lt.mp (not_of_guard_eq_none hf)
    rw [← Host.Outcome.next.inj ((withAccess_fits fun hn => Nat.not_lt.mpr fits hn.2).symm.trans h)]
    exact .memory _ (.inl ⟨x, rfl⟩) fits
  case ldMemVx x =>
    have fits : s.base + regCount x ≤ 4096 := Nat.not_le.mp (not_of_guard_eq_none hf)
    rw [← Host.Outcome.next.inj ((withAccess_fits fun hn => Nat.not_lt.mpr fits hn.2).symm.trans h)]
    exact .memory _ (.inr ⟨x, rfl⟩) (by rwa [State.length_regsUpTo])
  case ldVxMem x =>
    have fits : s.base + regCount x ≤ 4096 := Nat.not_le.mp (not_of_guard_eq_none hf)
    rw [← Host.Outcome.next.inj ((withAccess_fits fun hn => Nat.not_lt.mpr fits hn.2).symm.trans h)]
    exact .registers x ⟨0, 0, by simp⟩
  all_goals rw [← Host.Outcome.next.inj h]
  case cls => exact .clear rfl
  case jp | jpV0Nnn | seVxNn | sneVxNn | seVxVy | sneVxVy => exact .jump _
  case ldVxNn x nn | addVxNn x nn | rndVxNn x nn => exact .register x _ ⟨0, nn, by simp⟩
  case ldVxVy x y | orVxVy x y | andVxVy x y | xorVxVy x y => exact .register x _ ⟨y, 0, by simp⟩
  case ldVxDt x => exact .register x _ ⟨0, 0, by simp⟩
  case addVxVy x y | subVxVy x y | shrVx x y | subnVxVy x y | shlVx x y =>
    exact .resultFlag x _ _ ⟨x, y, 0, by simp⟩
  case ldINnn nnn => exact .index _ (.inl ⟨nnn, rfl⟩)
  case ldFVx x => exact .index _ (.inr ⟨x, rfl⟩)
  case addIVx x => exact .indexFlag x rfl _ _
  case skpVx x => exact .keypad (.inl ⟨x, rfl⟩) _ _
  case sknpVx x => exact .keypad (.inr ⟨x, rfl⟩) _ _
  case ldVxK x => exact .wait x rfl
  case ldDtVx x => exact .delay x rfl _
  case ldStVx x => exact .sound x rfl _

/-- Every answer of an instruction is one of its effects. -/
theorem exec_effect {i : Instr} {s t : State} (h : exec i s = .next t) : InstrEffect i s t := by
  cases hf : executeFault i s with
  | some f =>
    rw [exec_of_fault hf] at h
    cases h
    exact .fault f hf
  | none => exact exec_effect_of_no_fault hf h

/-! ## The writers of each element -/

/-- Settles O26: each effect writes the elements of its own instructions, and its update leaves the other fields alone. -/
theorem elementsBesideVAndPcHaveTheirWriters : Obligations.ElementsBesideVAndPcHaveTheirWriters := by
  intro i s t h
  cases exec_effect h with
  | jump | register | registers | resultFlag => simp
  | index w hi =>
    refine ⟨fun _ => ?_, by simp⟩
    exact hi.imp_right .inr
  | indexFlag x hi => simp [hi]
  | pop hi => simp [hi]
  | push nnn hi => simp [hi]
  | delay x hi => simp [hi]
  | sound x hi => simp [hi]
  | memory bs hi => simp [hi]
  | clear hi => simp [hi]
  | draw x y n hi => simp [hi]
  | keypad hi => simp [hi]
  | wait x hi => simp [hi]
  | fault f hf => simp [hf]

/-! ## The flag -/

theorem flagByte_eq_zero_or_one (c : Bool) : flagByte c = 0 ∨ flagByte c = 1 := by
  cases c
  · exact .inl rfl
  · exact .inr rfl

/-- A flag instruction that raises no fault writes a flag, and after it only pc (R22, R139). -/
theorem exec_writesFlag {i : Instr} {s t : State} (hi : WritesFlag i) (hf : executeFault i s = none)
    (h : exec i s = .next t) : ∃ u c, t = (State.writeFlag u c).advance := by
  cases i
  case addVxVy | subVxVy | shrVx | subnVxVy | shlVx | addIVx => exact ⟨_, _, (Host.Outcome.next.inj h).symm⟩
  case drwVxVyN x y n =>
    have hx := (withAccess_fits (not_of_guard_eq_none hf)).symm.trans h
    exact ⟨_, _, (Host.Outcome.next.inj hx).symm⟩
  all_goals simp [WritesFlag] at hi

/-- An instruction that changes VF writes it as a flag or names it as its destination (R22). -/
theorem InstrEffect.changes_vf {i : Instr} {s t : State} (h : InstrEffect i s t)
    (hv : t.readV regVF ≠ s.readV regVF) : WritesFlag i ∨ NamesDestination i regVF := by
  cases h with
  | register x b names =>
    have hx : regVF = x := by
      by_contra hne
      exact hv (by rw [State.readV_advance, State.readV_writeV, if_neg hne])
    exact .inr (hx ▸ names)
  | registers x names =>
    have hx : regVF = x := by
      by_contra hne
      have hlt : x.val < regVF.val := Fin.lt_last_iff_ne_last.mpr (Ne.symm hne)
      exact hv (by rw [State.readV_advance, State.readV_loadRegs, if_neg hlt.not_ge])
    exact .inr (hx ▸ names)
  | resultFlag x r c flags => exact .inl flags
  | indexFlag x hi => exact .inl ⟨x, 0, 0, by simp [hi]⟩
  | draw x y n hi => exact .inl ⟨x, y, n, by simp [hi]⟩
  | _ => exact absurd rfl hv

/-- Settles O27: a flag is the last register write of its instruction, and every other write of VF names it. -/
theorem sevenInstructionsWriteTheFlag : Obligations.SevenInstructionsWriteTheFlag := by
  refine ⟨fun s t x y n i hi hf h => ?_, fun s t i h hv => (exec_effect h).changes_vf hv⟩
  obtain ⟨u, c, rfl⟩ := exec_writesFlag ⟨x, y, n, hi⟩ hf h
  rw [State.readV_advance, State.readV_writeFlag, if_pos rfl]
  exact flagByte_eq_zero_or_one c

/-! ## The host's operations, case by case -/

theorem opLoad_cases (image : List Byte) (base : Nat) (s : State) :
    (s.mode = .uninitialized ∧ base + image.length ≤ 4096 ∧
      opLoad image base s = (s.store base image).returns .ok) ∨
    (s.mode = .uninitialized ∧ base + image.length > 4096 ∧ opLoad image base s = s.returns .loadError) ∨
    (s.mode ≠ .uninitialized ∧ opLoad image base s = s.returns .invalidState) := by
  cases hm : s.mode with
  | uninitialized =>
    by_cases hb : base + image.length > 4096
    · exact .inr (.inl ⟨rfl, hb, by simp only [opLoad, hm]; exact if_pos hb⟩)
    · exact .inl ⟨rfl, Nat.not_lt.mp hb, by simp only [opLoad, hm]; exact if_neg hb⟩
  | running | waitingForKey | halted => exact .inr (.inr ⟨by simp, by simp only [opLoad, hm]⟩)

theorem opInitialize_cases (a : Word) (s : State) :
    (s.mode = .uninitialized ∧ opInitialize a s =
      { s with
        pc := a, i := 0, stack := [], dt := 0, st := 0, residue := 0, mode := .running, result := .ok }) ∨
    (s.mode ≠ .uninitialized ∧ opInitialize a s = s.returns .invalidState) := by
  cases hm : s.mode with
  | uninitialized => exact .inl ⟨rfl, by simp only [opInitialize, hm]; rfl⟩
  | running | waitingForKey | halted => exact .inr ⟨by simp, by simp only [opInitialize, hm]⟩

theorem opKeyEvent_cases (k : Key) (s : State) :
    (∃ xw, s.mode = .waitingForKey xw ∧ opKeyEvent k s =
      ((s.writeV xw (BitVec.ofNat 8 k.val)).advance.setMode .running).returns .ok) ∨
    ((∀ xw, s.mode ≠ .waitingForKey xw) ∧ opKeyEvent k s = s.returns .ok) := by
  cases hm : s.mode with
  | waitingForKey xw => exact .inl ⟨xw, rfl, by simp only [opKeyEvent, hm]⟩
  | uninitialized | running | halted => exact .inr ⟨by simp, by simp only [opKeyEvent, hm]⟩

/-! ## The mode transitions (R40) -/

/-- The fetch gives the word at pc exactly where both its bytes exist (R81). -/
theorem fetch_ok_iff (s : State) : fetch s = .ok s.wordAtPc ↔ s.pc.toNat < 4095 := by
  rw [fetch_eq]
  split <;> simp <;> omega

/-- A `Step` in `Running` that has a fault halts on it, with nothing else done (R207, R209). -/
theorem opStep_of_stepFault (e : Env) {s : State} {f : Fault} (hm : s.mode = .running) (hf : stepFault s = some f) :
    opStep e s = .next (((s.withEnv e).setMode (.halted f)).returns (.halted f)) := by
  have hfe : stepFault (s.withEnv e) = some f := (stepFault_congr rfl rfl rfl rfl rfl).trans hf
  obtain ⟨g, hg, hs⟩ | ⟨hn, -⟩ := stepRunning_cases (s.withEnv e)
  · cases hfe.symm.trans hg
    rw [opStep_running e hm, hs]
    rfl
  · cases hfe.symm.trans hn

/-- A `Step` in `Running` on an `Fx0A` enters the wait and does nothing else (R172). -/
theorem opStep_of_waitForKey (e : Env) {s : State} {x : Reg} (hm : s.mode = .running) (hp : s.pc.toNat < 4095)
    (hd : decodeWord s.wordAtPc = some (.ldVxK x)) :
    opStep e s = .next (((s.withEnv e).setMode (.waitingForKey x)).returns .waiting) := by
  rw [opStep_running e hm, stepRunning_of_decode (s := s.withEnv e) (Nat.le_of_lt_succ hp) hd]
  rfl

/-- A `Step` that changes the mode enters a wait or halts (R40). -/
theorem opStep_changes_mode {e : Env} {s t : State} (h : opStep e s = .next t) (hne : t.mode ≠ s.mode) :
    (∃ x, s.mode = .running ∧ s.pc.toNat < 4095 ∧ decodeWord s.wordAtPc = some (.ldVxK x) ∧
      t.mode = .waitingForKey x) ∨
    ∃ f, s.mode = .running ∧ stepFault s = some f ∧ t.mode = .halted f := by
  obtain ⟨-, rfl⟩ | ⟨hm, f, hf, rfl⟩ | ⟨hm, -, i, u, hp, hd, -, -, rfl, hu | ⟨x, rfl, hu⟩⟩ := opStep_cases h
  · exact absurd rfl hne
  · exact .inr ⟨f, hm, hf, rfl⟩
  · exact absurd (hu.trans hm.symm) hne
  · exact .inl ⟨x, hm, hp, hd, hu⟩

/-- An operation that changes the mode is one of the five transitions of R40. -/
theorem perform_changes_mode {op : Operation} {s t : State} (h : perform op s = .next t) (hne : t.mode ≠ s.mode) :
    (op = .reset ∧ t.mode = .uninitialized) ∨
    (∃ a, op = .initializeAt a ∧ s.mode = .uninitialized ∧ t.mode = .running) ∨
    (∃ e x, op = .step e ∧ s.mode = .running ∧ fetch s = .ok s.wordAtPc ∧ decodeWord s.wordAtPc = some (.ldVxK x) ∧
      t.mode = .waitingForKey x) ∨
    (∃ k xw, op = .keyEvent k ∧ s.mode = .waitingForKey xw ∧ t.mode = .running) ∨
    (∃ e f, op = .step e ∧ s.mode = .running ∧ stepFault s = some f ∧ t.mode = .halted f) := by
  cases op with
  | step e =>
    obtain ⟨x, hm, hp, hd, ht⟩ | ⟨f, hm, hf, ht⟩ := opStep_changes_mode h hne
    · exact .inr (.inr (.inl ⟨e, x, rfl, hm, (fetch_ok_iff s).mpr hp, hd, ht⟩))
    · exact .inr (.inr (.inr (.inr ⟨e, f, rfl, hm, hf, ht⟩)))
  | reset => cases h; exact .inl ⟨rfl, rfl⟩
  | tick elapsed => cases h; exact absurd rfl hne
  | load image base =>
    cases h
    obtain ⟨-, -, ht⟩ | ⟨-, -, ht⟩ | ⟨-, ht⟩ := opLoad_cases image base s
    all_goals exact absurd (by rw [ht]; rfl) hne
  | initializeAt a =>
    cases h
    obtain ⟨hm, ht⟩ | ⟨-, ht⟩ := opInitialize_cases a s
    · exact .inr (.inl ⟨a, rfl, hm, by rw [ht]⟩)
    · exact absurd (by rw [ht]; rfl) hne
  | keyEvent k =>
    cases h
    obtain ⟨xw, hm, ht⟩ | ⟨-, ht⟩ := opKeyEvent_cases k s
    · exact .inr (.inr (.inr (.inl ⟨k, xw, rfl, hm, by rw [ht]; rfl⟩)))
    · exact absurd (by rw [ht]; rfl) hne

/-- Settles O14: no other transition by `perform_changes_mode`, and each of the five where its conditions hold. -/
theorem modeTransitionsAreComplete : Obligations.ModeTransitionsAreComplete := by
  refine ⟨fun op s t h hne => perform_changes_mode h hne, fun s => ⟨_, rfl, rfl⟩, fun s a hm => ⟨_, rfl, ?_⟩,
    fun s e x hm hf hd => ⟨_, opStep_of_waitForKey e hm ((fetch_ok_iff s).mp hf) hd, rfl⟩,
    fun s k xw hm => ⟨_, rfl, ?_⟩, fun s e f hm hf => ⟨_, opStep_of_stepFault e hm hf, rfl⟩⟩
  · obtain ⟨-, ht⟩ | ⟨hn, -⟩ := opInitialize_cases a s
    · rw [ht]
    · exact absurd hm hn
  · obtain ⟨xw', -, ht⟩ | ⟨hn, -⟩ := opKeyEvent_cases k s
    · rw [ht]; rfl
    · exact absurd hm (hn xw)

/-! ## The invariant -/

/-- Beside the truth of the mode, the invariant rests on the stack, the residue, memory and the parameters. -/
theorem State.Inv.of_modeHolds {s t : State} (h : s.Inv) (hst : t.stack = s.stack) (hres : t.residue = s.residue)
    (hm : t.mem = s.mem) (hp : t.params = s.params) (hmode : t.modeHolds) : t.Inv where
  depth_le := hst ▸ h.depth_le
  return_le := hst ▸ h.return_le
  residue_lt := by rw [hres, hp]; exact h.residue_lt
  mem_wf := by rw [hm, hp]; exact h.mem_wf
  mode_holds := hmode

/-- The invariant rests on the elements of R20 and the parameters alone, not on the outputs or the model's own fields. -/
theorem State.Inv.congr {s t : State} (h : s.Inv) (hv : t.v = s.v) (hi : t.i = s.i) (hpc : t.pc = s.pc)
    (hst : t.stack = s.stack) (hdt : t.dt = s.dt) (hs : t.st = s.st) (hres : t.residue = s.residue)
    (hmode : t.mode = s.mode) (hm : t.mem = s.mem) (hp : t.params = s.params) : t.Inv :=
  h.of_modeHolds hst hres hm hp (State.modeHolds_congr h.mode_holds hv hi hpc hst hdt.trans hs.trans hm hp hmode)

theorem State.Inv.returns {s : State} (h : s.Inv) (r : Result) : (s.returns r).Inv :=
  h.congr rfl rfl rfl rfl rfl rfl rfl rfl rfl rfl

theorem State.Inv.withEnv {s : State} (h : s.Inv) (e : Env) : (s.withEnv e).Inv :=
  h.congr rfl rfl rfl rfl rfl rfl rfl rfl rfl rfl

/-- The state after `Reset` meets the invariant, whatever the parameters (R34, R250). -/
theorem State.resetWith_inv (p : Params) : (State.resetWith p).Inv where
  depth_le := Nat.zero_le 16
  return_le := by simp
  residue_lt := p.timeUnitsPerSecond.property
  mem_wf := rfl
  mode_holds := ⟨rfl, rfl, rfl, rfl, rfl, rfl⟩

/-- Settles O16: the schedule is no part of what the invariant speaks of. -/
theorem resetMeetsTheInvariant : Obligations.ResetMeetsTheInvariant := by
  intro p ops
  exact (State.resetWith_inv p).congr rfl rfl rfl rfl rfl rfl rfl rfl rfl rfl

theorem State.modeHolds_of_running {s : State} (h : s.mode = .running) : s.modeHolds := by
  simp only [State.modeHolds, h]

theorem State.modeHolds_of_waiting {s : State} {x : Reg} (h : s.mode = .waitingForKey x) (hp : s.pc.toNat < 4095)
    (hd : decodeWord s.wordAtPc = some (.ldVxK x)) : s.modeHolds := by
  simp only [State.modeHolds, h]
  exact ⟨hp, hd⟩

theorem State.modeHolds_of_halted {s : State} {f : Fault} (h : s.mode = .halted f) (hf : stepFault s = some f) :
    s.modeHolds := by
  simp only [State.modeHolds, h]
  exact hf

theorem opReset_inv (s : State) : (opReset s).Inv :=
  (State.resetWith_inv s.params).congr rfl rfl rfl rfl rfl rfl rfl rfl rfl rfl

theorem opLoad_inv {s : State} (h : s.Inv) (image : List Byte) (base : Nat) : (opLoad image base s).Inv := by
  obtain ⟨hm, hb, ht⟩ | ⟨-, -, ht⟩ | ⟨-, ht⟩ := opLoad_cases image base s <;> rw [ht]
  · have hmode : (s.store base image).modeHolds := by
      have hmode := h.mode_holds
      simp only [State.modeHolds, State.store_mode, hm] at hmode ⊢
      exact hmode
    have hstore : (s.store base image).Inv :=
      ⟨h.depth_le, h.return_le, h.residue_lt, State.wf_store h.mem_wf base image hb, hmode⟩
    exact hstore.returns _
  · exact h.returns _
  · exact h.returns _

theorem opInitialize_inv {s : State} (h : s.Inv) (a : Word) : (opInitialize a s).Inv := by
  obtain ⟨-, ht⟩ | ⟨-, ht⟩ := opInitialize_cases a s <;> rw [ht]
  · exact ⟨Nat.zero_le 16, by simp, s.params.timeUnitsPerSecond.property, h.mem_wf, trivial⟩
  · exact h.returns _

/-- A timer at 0 stays there (R216). -/
theorem agedTimer_zero (n : Nat) : agedTimer 0 n = 0 := by
  simp [agedTimer]

theorem opTick_inv {s : State} (h : s.Inv) (elapsed : Nat) : (opTick elapsed s).Inv where
  depth_le := h.depth_le
  return_le := h.return_le
  residue_lt := Nat.mod_lt _ s.params.timeUnitsPerSecond.property
  mem_wf := h.mem_wf
  mode_holds := by
    have aged (b : Byte) (n : Nat) (hb : b = 0) : agedTimer b n = 0 := by rw [hb, agedTimer_zero]
    exact State.modeHolds_congr h.mode_holds rfl rfl rfl rfl (aged _ _) (aged _ _) rfl rfl rfl

theorem opKeyEvent_inv {s : State} (h : s.Inv) (k : Key) : (opKeyEvent k s).Inv := by
  obtain ⟨xw, -, ht⟩ | ⟨-, ht⟩ := opKeyEvent_cases k s <;> rw [ht]
  · exact h.of_modeHolds rfl rfl rfl rfl trivial
  · exact h.returns _

/-- An instruction in `Running` that completes keeps the invariant, where it stands at its own word: a call returns to
at most 4096, a store stays inside the capacity, and a wait stands on its `Fx0A`. -/
theorem InstrEffect.keeps_inv {i : Instr} {s t : State} (he : InstrEffect i s t) (h : s.Inv) (hm : s.mode = .running)
    (hp : s.pc.toNat < 4095) (hd : decodeWord s.wordAtPc = some i) (hf : executeFault i s = none) : t.Inv := by
  have running {u : State} (hu : u.mode = s.mode) : u.modeHolds := State.modeHolds_of_running (hu.trans hm)
  cases he with
  | pop hi rest a hst =>
    have hdrop : s.stack.dropLast.Sublist s.stack := s.stack.dropLast_sublist
    exact ⟨hdrop.length_le.trans h.depth_le, fun b hb => h.return_le b (hdrop.subset hb), h.residue_lt, h.mem_wf,
      running rfl⟩
  | push nnn hi room =>
    have hret : (s.pc + 2).toNat ≤ 4096 := by bv_omega
    refine ⟨by simpa using room, fun b hb => ?_, h.residue_lt, h.mem_wf, running rfl⟩
    obtain hb | rfl : b ∈ s.stack ∨ b = s.pc + 2 := by simpa using hb
    · exact h.return_le b hb
    · exact hret
  | memory bs hi fits =>
    exact ⟨h.depth_le, h.return_le, h.residue_lt, State.wf_store h.mem_wf _ bs fits, running rfl⟩
  | wait x hi =>
    have hw : decodeWord (s.setMode (.waitingForKey x)).wordAtPc = some (.ldVxK x) := hd.trans (congrArg some hi)
    exact h.of_modeHolds rfl rfl rfl rfl (State.modeHolds_of_waiting rfl hp hw)
  | fault f hf' => cases hf.symm.trans hf'
  | _ => exact h.of_modeHolds (by simp) (by simp) (by simp) (by simp) (running (by simp))

theorem opStep_inv {e : Env} {s t : State} (h : s.Inv) (hs : opStep e s = .next t) : t.Inv := by
  obtain ⟨-, rfl⟩ | ⟨-, f, hf, rfl⟩ | ⟨hm, -, i, u, hp, hd, hf, hx, rfl, -⟩ := opStep_cases hs
  · exact h.returns _
  · have hfault : stepFault ((s.withEnv e).setMode (.halted f)) = some f :=
      (stepFault_congr rfl rfl rfl rfl rfl).trans hf
    have hhalt : ((s.withEnv e).setMode (.halted f)).Inv :=
      h.of_modeHolds rfl rfl rfl rfl (State.modeHolds_of_halted rfl hfault)
    exact hhalt.returns _
  · exact ((exec_effect hx).keeps_inv (h.withEnv e) hm hp hd hf).returns _

/-- Every operation keeps the invariant (R35). -/
theorem perform_inv {op : Operation} {s t : State} (h : s.Inv) (hs : perform op s = .next t) : t.Inv := by
  cases op with
  | step e => exact opStep_inv h hs
  | reset => cases hs; exact opReset_inv s
  | load image base => cases hs; exact opLoad_inv h image base
  | initializeAt a => cases hs; exact opInitialize_inv h a
  | tick elapsed => cases hs; exact opTick_inv h elapsed
  | keyEvent k => cases hs; exact opKeyEvent_inv h k

/-- Settles O15: a step performs one operation on a state whose schedule and counter alone differ. -/
theorem stepKeepsTheInvariant : Obligations.StepKeepsTheInvariant := by
  intro s t h hs
  obtain ⟨op, rest, n, hop⟩ := step_cases s
  have hscheduled : State.Inv { s with pending := rest, draws := n } :=
    h.congr rfl rfl rfl rfl rfl rfl rfl rfl rfl rfl
  exact perform_inv hscheduled (hop.symm.trans hs)

end Sys2Proof.Machine
end

section
/-! SUPPORT. The statements of the memory family: plain storage, the uniqueness of the canonical form, and what the next
fetch sees of a store. -/

namespace Sys2Proof.Machine

variable {rom : FontRom}

/-! ## Plain storage -/

/-- Settles O31: the model's own reading rule of a write, at its address and at another. -/
theorem memoryIsPlainStorage : Obligations.MemoryIsPlainStorage :=
  fun _ m a b => ⟨m.read_write_same a b, fun _ hc => m.read_write_ne a b hc⟩

/-! ## The canonical form -/

@[simp] theorem Memory.read_cons_self (k : Nat) (c : Byte) (m : Memory) : Memory.read rom ((k, c) :: m) k = c :=
  if_pos rfl

theorem Memory.read_cons_ne (c : Byte) (m : Memory) {k a : Nat} (h : k ≠ a) :
    Memory.read rom ((k, c) :: m) a = m.read rom a :=
  if_neg h

/-- The entries of a canonical memory stand at its first address and up. -/
theorem Memory.wfFrom_head {low k : Nat} {c : Byte} {m : Memory} (h : Memory.wfFrom rom low ((k, c) :: m) = true) :
    Memory.wfFrom rom k ((k, c) :: m) = true := by
  rw [Memory.wfFrom_cons] at h ⊢
  exact ⟨le_rfl, h.2⟩

/-- Where a canonical memory does not read as its reset contents, its entries have begun. -/
theorem Memory.low_le_of_read_ne {low a : Nat} {m : Memory} (h : Memory.wfFrom rom low m = true)
    (hne : m.read rom a ≠ Config.resetByte rom a) : low ≤ a :=
  Nat.not_lt.mp fun hlt => hne (Memory.read_below h hlt)

/-- Canonical tails behind one shared entry read the same where the whole memories do: below and at that entry both
read as the reset contents. -/
theorem Memory.read_tail_eq {k : Nat} {c c' : Byte} {m m' : Memory} (h : Memory.wfFrom rom (k + 1) m = true)
    (h' : Memory.wfFrom rom (k + 1) m' = true) {a : Nat}
    (hread : Memory.read rom ((k, c) :: m) a = Memory.read rom ((k, c') :: m') a) : m.read rom a = m'.read rom a := by
  by_cases hka : k = a
  · rw [Memory.read_below h (by omega), Memory.read_below h' (by omega)]
  · rwa [Memory.read_cons_ne c m hka, Memory.read_cons_ne c' m' hka] at hread

/-- Canonical memories that read the same are the same data: each one's first entry is the other's. -/
theorem Memory.eq_of_wfFrom_of_read_eq {low : Nat} {m m' : Memory} (h : Memory.wfFrom rom low m = true)
    (h' : Memory.wfFrom rom low m' = true) (hread : ∀ a < 4096, m.read rom a = m'.read rom a) : m = m' := by
  induction m generalizing low m' with
  | nil =>
    cases m' with
    | nil => rfl
    | cons e' m' =>
      obtain ⟨k', c'⟩ := e'
      obtain ⟨-, hk', hc', -⟩ := (Memory.wfFrom_cons low k' c' m').mp h'
      exact absurd ((Memory.read_cons_self k' c' m').symm.trans (hread k' hk').symm) hc'
  | cons e m ih =>
    obtain ⟨k, c⟩ := e
    obtain ⟨-, hk, hc, hm⟩ := (Memory.wfFrom_cons low k c m).mp h
    have hhead : m'.read rom k = c := (hread k hk).symm.trans (Memory.read_cons_self k c m)
    cases m' with
    | nil => exact absurd hhead.symm hc
    | cons e' m' =>
      obtain ⟨k', c'⟩ := e'
      obtain ⟨-, hk', hc', hm'⟩ := (Memory.wfFrom_cons low k' c' m').mp h'
      have hhead' : Memory.read rom ((k, c) :: m) k' = c' := (hread k' hk').trans (Memory.read_cons_self k' c' m')
      obtain rfl : k = k' := Nat.le_antisymm (Memory.low_le_of_read_ne (Memory.wfFrom_head h) (hhead'.trans_ne hc'))
        (Memory.low_le_of_read_ne (Memory.wfFrom_head h') (hhead.trans_ne hc))
      obtain rfl : c' = c := (Memory.read_cons_self k c' m').symm.trans hhead
      rw [ih hm hm' fun a ha => Memory.read_tail_eq hm hm' (hread a ha)]

/-- Settles O32: uniqueness by induction on the entries, and the model's lemma on writes. -/
theorem canonicalMemoryIsItsContents : Obligations.CanonicalMemoryIsItsContents :=
  ⟨fun _ _ _ h h' hread => Memory.eq_of_wfFrom_of_read_eq h h' hread, fun _ _ _ b h ha => Memory.wf_write h ha b⟩

/-! ## A store and the next fetch -/

theorem Memory.readWord_write_same (m : Memory) (a : Nat) (b : Byte) :
    (m.write rom a b).readWord rom a = wordOf b (m.read rom (a + 1)) := by
  rw [Memory.readWord, Memory.read_write_same, Memory.read_write_ne m a b (Nat.succ_ne_self a)]

theorem Memory.readWord_write_succ (m : Memory) (a : Nat) (b : Byte) :
    (m.write rom (a + 1) b).readWord rom a = wordOf (m.read rom a) b := by
  rw [Memory.readWord, Memory.read_write_same, Memory.read_write_ne m (a + 1) b (Nat.succ_ne_self a).symm]

/-- `Fx55` inside the capacity stores the registers and goes on (R154). -/
theorem execLdMemVx_fits {x : Reg} {s : State} (h : s.base + regCount x ≤ 4096) :
    exec (.ldMemVx x) s = .next (s.store s.base (s.regsUpTo x)).advance :=
  withAccess_fits fun hn => Nat.not_lt.mpr h hn.2

/-- After a store of `V[0]` to `V[x]` the byte `k` places up is `V[k]` (R154). -/
theorem State.byteAt_store_regsUpTo (s : State) {x k : Reg} (base : Nat) (h : k.val ≤ x.val) :
    (s.store base (s.regsUpTo x)).byteAt (base + k.val) = s.readV k := by
  have hk : k.val < (s.regsUpTo x).length := by rw [State.length_regsUpTo, regCount]; omega
  rw [State.byteAt_store_inside s base _ k.val hk, State.getElem_regsUpTo]

/-- Two registers or more stored at the following instruction are the word that pc then points at (R58, R62, R154). -/
theorem State.wordAtPc_store_regsUpTo {s : State} {x : Reg} (hx : 1 ≤ x.val) (hi : s.i = s.pc + 2) :
    (s.store s.base (s.regsUpTo x)).advance.wordAtPc = wordOf (s.readV 0) (s.readV 1) := by
  have hpc : (s.store s.base (s.regsUpTo x)).advance.pc.toNat = s.base := congrArg BitVec.toNat hi.symm
  rw [State.wordAtPc, hpc, State.byteAt_advance, State.byteAt_advance,
    ← s.byteAt_store_regsUpTo (k := 0) s.base (Nat.zero_le _), ← s.byteAt_store_regsUpTo (k := 1) s.base hx]
  rfl

/-- Settles O33: the two bytes of a word after a write, and `Fx55` over the following instruction, inside the
capacity. -/
theorem storesAreSeenByTheNextFetch : Obligations.StoresAreSeenByTheNextFetch := by
  refine ⟨fun rom m a b => ⟨m.readWord_write_same a b, fun ha => ?_⟩, fun s t x hx hpc hi hfits h => ?_⟩
  · obtain ⟨a, rfl⟩ := Nat.exists_eq_add_one.mpr ha
    exact m.readWord_write_succ a b
  · obtain rfl : (s.store s.base (s.regsUpTo x)).advance = t :=
      Host.Outcome.next.inj ((execLdMemVx_fits hfits).symm.trans h)
    have hpc' : (s.store s.base (s.regsUpTo x)).advance.pc.toNat < 4095 := by
      have hadd : (s.pc + 2).toNat = s.pc.toNat + 2 := by bv_omega
      exact hadd.trans_lt (by omega)
    rw [(fetch_ok_iff _).mpr hpc', State.wordAtPc_store_regsUpTo hx hi]

end Sys2Proof.Machine
end

section
/-! SUPPORT. The statements of the encoding family: decoder and encoder are inverse to each other, a word is legal
exactly where it matches a row of the opcode map, a `Step` executes the instruction at pc, and where pc goes then. -/

namespace Sys2Proof

/-! ## Decoder and encoder -/

/-- The decoder reads a well-formed instruction back from its word: the class selects the arm, the sub-opcode the
instruction, and an operand that fits its field comes back whole (R82 to R86). -/
theorem decodeWord_encode {i : Instr} (h : i.wf = true) : decodeWord (encode i) = some i := by
  cases i
  case cls | ret => rfl
  case jp nnn | call nnn | ldINnn nnn | jpV0Nnn nnn =>
    have hnnn : addressFits nnn = true := h
    simp [encode, decodeWord, fieldNNN_encodeNNN _ _ hnnn]
  case seVxNn | sneVxNn | ldVxNn | addVxNn | rndVxNn => simp [encode, decodeWord]
  case drwVxVyN x y n =>
    have hn : n < 16 := of_decide_eq_true h
    simp [encode, decodeWord, Nat.mod_eq_of_lt hn]
  case seVxVy => simp [encode, decodeWord, decodeClass5]
  case sneVxVy => simp [encode, decodeWord, decodeClass9]
  case skpVx | sknpVx => simp [encode, decodeWord, decodeClassE]
  case ldVxDt | ldVxK | ldDtVx | ldStVx | addIVx | ldFVx | ldBVx | ldMemVx | ldVxMem =>
    simp [encode, decodeWord, decodeClassF]
  all_goals simp [encode, decodeWord, decodeClass8]

/-- Settles O1: `decodeWord_encode` on the two bytes, with the bytes after them left. -/
theorem decodeInvertsEncode : Obligations.DecodeInvertsEncode :=
  fun _ rest h => decode_of_decodeWord (decodeWord_encode h) rest

theorem encodeNNN_of_class {op : Word} {c : Nat} (hc : fieldClass op = c) :
    encodeNNN (BitVec.ofNat 4 c) (fieldNNN op) = op :=
  hc ▸ encodeNNN_fields op

theorem encodeXNN_of_class {op : Word} {c : Nat} (hc : fieldClass op = c) :
    encodeXNN (BitVec.ofNat 4 c) (fieldX op) (fieldNN op) = op :=
  hc ▸ encodeXNN_fields op

theorem encodeXNN_of_class_nn {op : Word} {c nn : Nat} (hc : fieldClass op = c) (hnn : (fieldNN op).toNat = nn) :
    encodeXNN (BitVec.ofNat 4 c) (fieldX op) (BitVec.ofNat 8 nn) = op := by
  rw [← hnn, BitVec.ofNat_toNat, BitVec.setWidth_eq, encodeXNN_of_class hc]

theorem encodeXYN_of_class_n {op : Word} {c n : Nat} (hc : fieldClass op = c) (hn : fieldN op = n) :
    encodeXYN (BitVec.ofNat 4 c) (fieldX op) (fieldY op) (BitVec.ofNat 4 n) = op :=
  hc ▸ hn ▸ encodeXYN_fields op

/-- The instruction has an encoding, and it is the word. -/
def Instr.EncodesAs (i : Instr) (op : Word) : Prop := i.wf = true ∧ encode i = op

theorem encodesAs_of_decodeClass0 {op : Word} {i : Instr} (h : decodeClass0 op = some i) : i.EncodesAs op := by
  unfold decodeClass0 at h
  split at h
  case isTrue hop => cases h; exact ⟨rfl, hop.symm⟩
  case isFalse =>
    split at h
    case isTrue hop => cases h; exact ⟨rfl, hop.symm⟩
    case isFalse => cases h

/-- No bit of a legal word is dropped: what the arm does not read as an operand it has matched (R82, R85, R89). -/
theorem encodesAs_of_decodeWord {op : Word} {i : Instr} (h : decodeWord op = some i) : i.EncodesAs op := by
  unfold decodeWord at h
  split at h
  -- Arm `h_k` is the one of class `k - 1`.
  case h_1 => exact encodesAs_of_decodeClass0 h
  case h_6 hc | h_9 hc | h_10 hc =>
    simp only [decodeClass5, decodeClass8, decodeClass9] at h
    split at h <;> cases h
    all_goals exact ⟨rfl, encodeXYN_of_class_n hc ‹_›⟩
  case h_15 hc | h_16 hc =>
    simp only [decodeClassE, decodeClassF] at h
    split at h <;> cases h
    all_goals exact ⟨rfl, encodeXNN_of_class_nn hc ‹_›⟩
  all_goals cases h
  case h_2.refl hc | h_3.refl hc | h_11.refl hc | h_12.refl hc =>
    exact ⟨addressFits_fieldNNN op, encodeNNN_of_class hc⟩
  case h_14.refl hc => exact ⟨countFits_fieldN op, encodeXYN_of_class_n hc rfl⟩
  all_goals exact ⟨rfl, encodeXNN_of_class ‹_›⟩

/-- Settles O2: `encodesAs_of_decodeWord` is the statement for one word. -/
theorem encodeInvertsDecode : Obligations.EncodeInvertsDecode :=
  fun _ _ h => encodesAs_of_decodeWord h

/-! ## The illegal words -/

theorem fieldN_lt (op : Word) : fieldN op < 16 := (op.extractLsb' 0 4).isLt

theorem decodeClass0_eq_none_iff (op : Word) : decodeClass0 op = none ↔ op ≠ 0x00E0#16 ∧ op ≠ 0x00EE#16 := by
  unfold decodeClass0
  split <;> simp [*]

theorem decodeClass5_eq_none_iff (op : Word) : decodeClass5 op = none ↔ fieldN op ≠ 0 := by
  unfold decodeClass5
  split
  case h_1 hn => simp [hn]
  case h_2 hn => simpa using hn

theorem decodeClass8_eq_none_iff (op : Word) :
    decodeClass8 op = none ↔ fieldN op ∈ [0x8, 0x9, 0xA, 0xB, 0xC, 0xD, 0xF] := by
  have hlt := fieldN_lt op
  unfold decodeClass8
  split
  case h_10 => simp; grind
  all_goals simp [*]

theorem decodeClass9_eq_none_iff (op : Word) : decodeClass9 op = none ↔ fieldN op ≠ 0 := by
  unfold decodeClass9
  split
  case h_1 hn => simp [hn]
  case h_2 hn => simpa using hn

theorem decodeClassE_eq_none_iff (op : Word) :
    decodeClassE op = none ↔ (fieldNN op).toNat ∉ [0x9E, 0xA1] := by
  unfold decodeClassE
  split
  case h_3 => simp; tauto
  all_goals simp [*]

theorem decodeClassF_eq_none_iff (op : Word) :
    decodeClassF op = none ↔
      (fieldNN op).toNat ∉ [0x07, 0x0A, 0x15, 0x18, 0x1E, 0x29, 0x33, 0x55, 0x65] := by
  unfold decodeClassF
  split
  case h_10 => simp; tauto
  all_goals simp [*]

/-- The illegal words by class and distinguishing field (R85, R87). -/
theorem decodeWord_eq_none_iff (op : Word) :
    decodeWord op = none ↔
      (fieldClass op = 0x0 ∧ op ≠ 0x00E0#16 ∧ op ≠ 0x00EE#16) ∨
      (fieldClass op = 0x5 ∧ fieldN op ≠ 0) ∨
      (fieldClass op = 0x8 ∧ fieldN op ∈ [0x8, 0x9, 0xA, 0xB, 0xC, 0xD, 0xF]) ∨
      (fieldClass op = 0x9 ∧ fieldN op ≠ 0) ∨
      (fieldClass op = 0xE ∧ (fieldNN op).toNat ∉ [0x9E, 0xA1]) ∨
      (fieldClass op = 0xF ∧
        (fieldNN op).toNat ∉ [0x07, 0x0A, 0x15, 0x18, 0x1E, 0x29, 0x33, 0x55, 0x65]) := by
  have hlt : fieldClass op < 16 := (op.extractLsb' 12 4).isLt
  unfold decodeWord
  split
  -- A class is one of the sixteen that the decoder lists.
  case h_17 => grind
  all_goals simp [*, decodeClass0_eq_none_iff, decodeClass5_eq_none_iff, decodeClass8_eq_none_iff,
    decodeClass9_eq_none_iff, decodeClassE_eq_none_iff, decodeClassF_eq_none_iff]

/-- Settles O4: the fields of `decodeWord_eq_none_iff` as quotients and remainders of the word. -/
theorem illegalWordsByClass : Obligations.IllegalWordsByClass := by
  intro op
  have h0 : op ≠ 0x00E0#16 ∧ op ≠ 0x00EE#16 ↔ op.toNat ≠ 0x00E0 ∧ op.toNat ≠ 0x00EE := by
    simp [← BitVec.toNat_inj]
  simpa only [h0, fieldClass_eq, fieldN_eq, fieldNN_toNat] using decodeWord_eq_none_iff op

/-! ## The opcode map -/

/-- The bits that tell in a class whether a word is legal: the class and its distinguishing field (R85). -/
def distinguishingMask : Nat → Word
  | 0x0 => 0xFFFF#16
  | 0x5 | 0x8 | 0x9 => 0xF00F#16
  | 0xE | 0xF => 0xF0FF#16
  | _ => 0xF000#16

/-- A mask that holds every bit of a field leaves the field as it is. -/
theorem extractLsb'_and_of_allOnes {m : Word} {start len : Nat} (hm : m.extractLsb' start len = BitVec.allOnes len)
    (op : Word) : (op &&& m).extractLsb' start len = op.extractLsb' start len := by
  rw [BitVec.extractLsb'_and, hm, BitVec.and_allOnes]

theorem fieldClass_and_distinguishingMask (op : Word) (c : Nat) :
    fieldClass (op &&& distinguishingMask c) = fieldClass op := by
  have hm : (distinguishingMask c).extractLsb' 12 4 = BitVec.allOnes 4 := by
    unfold distinguishingMask
    split <;> rfl
  exact congrArg BitVec.toNat (extractLsb'_and_of_allOnes hm op)

theorem fieldN_and_0xF00F (op : Word) : fieldN (op &&& 0xF00F#16) = fieldN op :=
  congrArg BitVec.toNat (extractLsb'_and_of_allOnes rfl op)

theorem fieldNN_and_0xF0FF (op : Word) : fieldNN (op &&& 0xF0FF#16) = fieldNN op :=
  extractLsb'_and_of_allOnes rfl op

theorem and_0xFFFF (op : Word) : op &&& 0xFFFF#16 = op := BitVec.and_allOnes

/-- The other bits of an illegal word cannot make it legal (R85). -/
theorem decodeWord_and_distinguishingMask_eq_none {op : Word} (h : decodeWord op = none) :
    decodeWord (op &&& distinguishingMask (fieldClass op)) = none := by
  rw [decodeWord_eq_none_iff] at h ⊢
  rw [fieldClass_and_distinguishingMask]
  obtain ⟨hc, h⟩ | ⟨hc, h⟩ | ⟨hc, h⟩ | ⟨hc, h⟩ | ⟨hc, h⟩ | ⟨hc, h⟩ := h <;> rw [hc]
  case inl => simpa [distinguishingMask, and_0xFFFF] using h
  case inr.inl | inr.inr.inl | inr.inr.inr.inl => simpa [distinguishingMask, fieldN_and_0xF00F] using h
  all_goals simpa [distinguishingMask, fieldNN_and_0xF0FF] using h

/-- A row masks the distinguishing bits of its class, and its match is itself a legal word (R86). -/
theorem opcodeMap_row {row : Word × Word} (h : row ∈ opcodeMap) :
    row.1 = distinguishingMask (fieldClass row.2) ∧ decodeWord row.2 ≠ none := by
  fin_cases h <;> decide

/-- A word that matches a row agrees with the row's match in every distinguishing bit, so it is legal with it. -/
theorem decodeWord_ne_none_of_matchesRow {op : Word} {row : Word × Word} (hrow : row ∈ opcodeMap)
    (h : matchesRow op row = true) : decodeWord op ≠ none := by
  obtain ⟨hmask, hlegal⟩ := opcodeMap_row hrow
  have hmatch : op &&& row.1 = row.2 := beq_iff_eq.mp h
  have hclass : fieldClass row.2 = fieldClass op := by
    rw [← hmatch, hmask, fieldClass_and_distinguishingMask]
  have heq : op &&& distinguishingMask (fieldClass op) = row.2 := by rw [← hclass, ← hmask, hmatch]
  exact fun hnone => hlegal (heq ▸ decodeWord_and_distinguishingMask_eq_none hnone)

open Laws.EncodingRow in
theorem encodingRow_statement (i : Instr) : Statement i := by
  cases i
  exacts [cls, ret, jp _, call _, seVxNn _ _, sneVxNn _ _, seVxVy _ _, ldVxNn _ _, addVxNn _ _, ldVxVy _ _, orVxVy _ _,
    andVxVy _ _, xorVxVy _ _, addVxVy _ _, subVxVy _ _, shrVx _ _, subnVxVy _ _, shlVx _ _, sneVxVy _ _, ldINnn _,
    jpV0Nnn _, rndVxNn _ _, drwVxVyN _ _ _, skpVx _, sknpVx _, ldVxDt _, ldVxK _, ldDtVx _, ldStVx _, addIVx _, ldFVx _,
    ldBVx _, ldMemVx _, ldVxMem _]

theorem rowOf_mem_opcodeMap (i : Instr) : Laws.EncodingRow.rowOf i ∈ opcodeMap := by
  cases i <;> exact of_decide_eq_true rfl

/-- Two rows that one word matches have the same match on the bits that both mask. -/
theorem and_eq_and_of_matchesRow {op : Word} {r q : Word × Word} (hr : matchesRow op r = true)
    (hq : matchesRow op q = true) : r.2 &&& q.1 = q.2 &&& r.1 := by
  have hr' : op &&& r.1 = r.2 := beq_iff_eq.mp hr
  have hq' : op &&& q.1 = q.2 := beq_iff_eq.mp hq
  rw [← hr', ← hq', BitVec.and_assoc, BitVec.and_assoc, BitVec.and_comm r.1]

theorem opcodeMap_pairwise : opcodeMap.Pairwise fun r q => r.2 &&& q.1 ≠ q.2 &&& r.1 := by decide

/-- Settles O3: an illegal word matches no row, a legal one the row of its instruction, and no two rows agree on the
bits that both mask. -/
theorem opcodeMapDecidesLegality : Obligations.OpcodeMapDecidesLegality := by
  refine ⟨rfl, fun op => ⟨fun hnone row hrow => ?_, fun hno => ?_⟩,
    opcodeMap_pairwise.imp fun hne _ hboth => hne (and_eq_and_of_matchesRow hboth.1 hboth.2)⟩
  · exact Bool.eq_false_iff.mpr fun hmatch => decodeWord_ne_none_of_matchesRow hrow hmatch hnone
  · refine Option.eq_none_iff_forall_ne_some.mpr fun i hi => ?_
    obtain ⟨-, rfl⟩ := encodesAs_of_decodeWord hi
    exact Bool.eq_false_iff.mp (hno _ (rowOf_mem_opcodeMap i)) (encodingRow_statement i)

/-- Settles O5: ten closed words, each decoded by evaluation. -/
theorem writtenOutWordsDecode : Obligations.WrittenOutWordsDecode := by
  unfold Obligations.WrittenOutWordsDecode
  decide

end Sys2Proof

namespace Sys2Proof.Machine

/-! ## Fetch and step -/

/-- Settles O7: `fetch_eq` in the three ranges of pc, and the two bytes of the word at pc. -/
theorem fetchReadsTwoBytesOrFaults : Obligations.FetchReadsTwoBytesOrFaults := by
  intro s
  refine ⟨fun hp => ⟨s.wordAtPc, (fetch_ok_iff s).mpr (by omega), highByte_wordOf _ _, lowByte_wordOf _ _⟩,
    fun hp => ?_, fun hp => ?_⟩
  · rw [fetch_eq, if_pos hp.ge, hp]
    rfl
  · rw [fetch_eq, if_pos (by omega), Nat.max_eq_left hp]

/-- Every instruction answers a next state: a fault is a halt (log 7). -/
theorem exec_answers_next (i : Instr) (s : State) : ∃ t, exec i s = .next t := by
  cases hf : executeFault i s with
  | some f => exact ⟨_, exec_of_fault hf⟩
  | none => exact (exec_completes hf).imp fun _ h => h.1

/-- A `Step` in `Running` at an instruction executes it and records the result that the mode tells (R92). -/
theorem opStep_of_decode {s : State} {i : Instr} (e : Env) (hm : s.mode = .running) (hp : s.pc.toNat ≤ 4094)
    (hd : decodeWord s.wordAtPc = some i) :
    ∃ t, exec i (s.withEnv e) = .next t ∧ opStep e s = .next (t.returns (stepResult t.mode)) := by
  obtain ⟨t, ht⟩ := exec_answers_next i (s.withEnv e)
  refine ⟨t, ht, ?_⟩
  rw [opStep_running e hm, stepRunning_of_decode (s := s.withEnv e) hp hd, ht, answerStep_next]

/-- With nothing scheduled and `Step`s to follow, a step at an instruction executes it in the free environment of the
counter (log 6, log 24). -/
theorem step_of_decode_unscheduled {s : State} {i : Instr} (hm : s.mode = .running) (hnil : s.pending = [])
    (hsteps : s.unscheduled = .steps) (hp : s.pc.toNat ≤ 4094) (hd : decodeWord s.wordAtPc = some i) :
    ∃ t, exec i (s.drawn.withEnv (freeEnv s.draws)) = .next t ∧ step s = .next (t.returns (stepResult t.mode)) := by
  have hop : unscheduledOperation s.unscheduled s.draws = .step (freeEnv s.draws) := by rw [hsteps]; rfl
  rw [step_of_pending_nil hnil hop]
  exact opStep_of_decode (s := s.drawn) _ hm hp hd

/-- Settles O6: `opStep_of_decode` on the state with the `Step` taken off the schedule, or with the counter advanced. -/
theorem stepRunsTheDecodedInstruction : Obligations.StepRunsTheDecodedInstruction := by
  refine ⟨fun s e rest i hm hpend hp hd => ?_, fun s i hm hnil hsteps hp hd =>
    step_of_decode_unscheduled hm hnil hsteps hp hd⟩
  rw [step_of_pending_cons hpend]
  exact opStep_of_decode (s := s.withPending rest) e hm hp hd

/-! ## A placed instruction (log 2) -/

/-- A word stored at an address is the word that is read there (R58). -/
theorem State.wordOf_byteAt_store_wordBytes (s : State) (a : Nat) (op : Word) :
    wordOf ((s.store a (wordBytes op)).byteAt a) ((s.store a (wordBytes op)).byteAt (a + 1)) = op := by
  have hhi : (s.store a (wordBytes op)).byteAt a = highByte op := s.byteAt_store_inside a (wordBytes op) 0 Nat.two_pos
  have hlo : (s.store a (wordBytes op)).byteAt (a + 1) = lowByte op :=
    s.byteAt_store_inside a (wordBytes op) 1 Nat.one_lt_two
  rw [hhi, hlo, wordOf_bytes]

/-- An instruction is placed where both its bytes exist. -/
theorem placeAddress_le (s : State) : placeAddress s ≤ 4094 := by
  rw [placeAddress, accessFault_eq]
  by_cases h : s.pc.toNat + 2 > 4096
  · rw [if_pos ⟨Nat.two_pos, h⟩]
    exact of_decide_eq_true rfl
  · rw [if_neg fun hn => h hn.2]
    show s.pc.toNat ≤ 4094
    omega

theorem State.withFetchWord_pc_toNat (s : State) (nbits w : Nat) :
    (s.withFetchWord nbits w).pc.toNat = placeAddress s :=
  Nat.mod_eq_of_lt ((placeAddress_le s).trans_lt (by decide))

theorem State.withFetchWord_wordAtPc (s : State) (nbits w : Nat) :
    (s.withFetchWord nbits w).wordAtPc = tableWord nbits w := by
  rw [State.wordAtPc, State.withFetchWord_pc_toNat]
  exact s.wordOf_byteAt_store_wordBytes (placeAddress s) (tableWord nbits w)

theorem decodeWord_tableWord (nbits w : Nat) : decodeWord (tableWord nbits w) = decodeTableWord nbits w := by
  cases h : decodeWord (tableWord nbits w) <;> simp [decodeTableWord, decode, wordBytes, h]

/-- Settles O13: the placed word stands at pc, in `Running` with nothing scheduled and `Step`s to follow. -/
theorem placedInstructionIsStepped : Obligations.PlacedInstructionIsStepped := by
  intro s w i h
  have hp : (s.withFetchWord 16 w).pc.toNat ≤ 4094 := (s.withFetchWord_pc_toNat 16 w).trans_le (placeAddress_le s)
  have hd : decodeWord (s.withFetchWord 16 w).wordAtPc = some i := by
    rw [State.withFetchWord_wordAtPc, decodeWord_tableWord, h]
  obtain ⟨t, ht⟩ := step_of_decode_unscheduled rfl rfl rfl hp hd
  exact ⟨_, t, rfl, ht⟩

/-! ## Where pc goes (R93) -/

/-- A checked access that does not fault answers what comes after it. -/
theorem withAccess_next {base n : Nat} {s t u : State} (hfits : ¬ (0 < n ∧ base + n > 4096))
    (h : withAccess base n s (.next u) = .next t) : t = u :=
  Host.Outcome.next.inj (h.symm.trans (withAccess_fits hfits))

/-- Settles O28: `00EE` and `2nnn` on the stack that lets them complete, a memory access inside the capacity, and every
other instruction by its meaning; `KeyEvent` by its cases. -/
theorem pcBehaviourOfEveryInstruction : Obligations.PcBehaviourOfEveryInstruction := by
  refine ⟨fun i s t hf h => ?_, fun s k xw hm => ⟨_, rfl, ?_⟩⟩
  · cases i
    case ret =>
      obtain ⟨rest, a, hst⟩ := stack_eq_append (not_of_guard_eq_none hf)
      obtain rfl : s.dropTop.jump a = t := Host.Outcome.next.inj ((execRet_append hst).symm.trans h)
      simp [hst]
    case call nnn =>
      have room : s.stack.length < 16 := Nat.not_le.mp (not_of_guard_eq_none hf)
      obtain rfl := Host.Outcome.next.inj ((execCall_room nnn room).symm.trans h)
      rfl
    case drwVxVyN =>
      rw [withAccess_next (not_of_guard_eq_none hf) h]
      rfl
    case ldBVx =>
      rw [withAccess_next (fun hn => not_of_guard_eq_none hf hn.2) h]
      rfl
    case ldMemVx | ldVxMem =>
      rw [withAccess_next (fun hn => not_of_guard_eq_none hf (Nat.le_of_lt_succ hn.2)) h]
      rfl
    all_goals obtain rfl := Host.Outcome.next.inj h
    case seVxNn | sneVxNn | seVxVy | sneVxVy => simp
    case skpVx | sknpVx => simp [Env.isDown]
    all_goals rfl
  · obtain ⟨xw', -, ht⟩ | ⟨hn, -⟩ := opKeyEvent_cases k s
    · rw [ht]; rfl
    · exact absurd hm (hn xw)

end Sys2Proof.Machine
end

section
/-! SUPPORT. The statements of the control-transfer family: the words of format `NNN`, what the four transfers do to pc
and the stack, and that the transfers and the skips leave the data alone. -/

namespace Sys2Proof

/-! ## Words of format `NNN` with any 12 bits (R83, R84) -/

/-- Zero-extended and encoded, the 12 bits of an address stand in the word as they are. -/
theorem encodeNNN_setWidth (c : BitVec 4) (nnn : BitVec 12) : encodeNNN c (nnn.setWidth 16) = c ++ nnn := by
  have hlow : (nnn.setWidth 16).extractLsb' 0 12 = nnn := by simp [← BitVec.setWidth_eq_extractLsb']
  rw [encodeNNN, hlow]

theorem addressFits_setWidth (nnn : BitVec 12) : addressFits (nnn.setWidth 16) = true := by
  have := nnn.isLt
  simp only [addressFits, decide_eq_true_eq, BitVec.toNat_setWidth]
  omega

/-- A class followed by any 12 bits decodes to the instruction of format `NNN` that encodes with that class. -/
theorem decodeWord_append_nnn {c : BitVec 4} {nnn : BitVec 12} {i : Instr}
    (hi : encode i = encodeNNN c (nnn.setWidth 16)) (hwf : i.wf = addressFits (nnn.setWidth 16)) :
    decodeWord (c ++ nnn) = some i := by
  rw [← encodeNNN_setWidth, ← hi]
  exact decodeWord_encode (hwf.trans (addressFits_setWidth nnn))

end Sys2Proof

namespace Sys2Proof.Machine

/-! ## Call and return -/

/-- `00EE` takes the last address off the stack into pc (R100). -/
theorem exec_ret_append {s : State} {rest : List Word} {a : Word} (h : s.stack = rest ++ [a]) :
    exec .ret s = .next { s with stack := rest, pc := a } := by
  have hrest : s.stack.dropLast = rest := by rw [h, List.dropLast_concat]
  calc exec .ret s = .next (s.dropTop.jump a) := execRet_append h
    _ = .next { s with stack := s.stack.dropLast, pc := a } := rfl
    _ = .next { s with stack := rest, pc := a } := by rw [hrest]

/-- Settles O37: the call leaves its return address last on the stack, and the return takes that one off. -/
theorem returnUndoesCall : Obligations.ReturnUndoesCall := by
  intro s t u nnn room hcall hstack
  obtain rfl := Host.Outcome.next.inj ((execCall_room nnn room).symm.trans hcall)
  exact exec_ret_append hstack

/-- Settles O34: the pop is `exec_ret_append`, the empty stack is the fault of `00EE`. -/
theorem returnPopsTheLastAddress : Obligations.ReturnPopsTheLastAddress := by
  refine ⟨rfl, fun _ _ _ h => exec_ret_append h, fun s hempty => ?_⟩
  have hfault : executeFault .ret s = some (.stackUnderflow s.pc) := if_pos (List.length_eq_zero_iff.mpr hempty)
  exact exec_of_fault hfault

/-- Settles O36: the push is `execCall_room`, the full stack is the fault of `2nnn`. -/
theorem callPushesTheReturnAddress : Obligations.CallPushesTheReturnAddress := by
  refine ⟨fun nnn => decodeWord_append_nnn rfl rfl, fun _ nnn room => execCall_room nnn room, fun s nnn hfull => ?_⟩
  have hfault : executeFault (.call nnn) s = some (.stackOverflow s.pc) := if_pos hfull.ge
  exact exec_of_fault hfault

/-! ## Jumps -/

/-- Settles O35: the jump writes pc alone; a pc of 0xFFF is the last address, where the fetch faults. -/
theorem jumpSetsPc : Obligations.JumpSetsPc := by
  refine ⟨fun nnn => decodeWord_append_nnn rfl rfl, fun _ _ => rfl, fun s t h => ?_, fun _ => rfl⟩
  obtain rfl : s.jump 0x0FFF = t := Host.Outcome.next.inj h
  obtain ⟨-, hlast, -⟩ := fetchReadsTwoBytesOrFaults (s.jump 0x0FFF)
  exact ⟨0x0FFF, hlast rfl⟩

/-- A 12-bit address and a byte add up within 16 bits, so the sum is exact (R103, D16). -/
theorem State.offsetTarget_toNat (s : State) (nnn : BitVec 12) :
    (s.offsetTarget (nnn.setWidth 16)).toNat = nnn.toNat + (s.readV 0).toNat := by
  have := nnn.isLt
  have := (s.readV 0).isLt
  simp only [State.offsetTarget, BitVec.toNat_add, BitVec.toNat_setWidth]
  omega

/-- Settles O38: the new pc is the target of `State.offsetTarget_toNat`. -/
theorem offsetJumpAddsV0 : Obligations.OffsetJumpAddsV0 :=
  ⟨fun _ => decodeWord_append_nnn rfl rfl, fun s nnn => ⟨_, rfl, rfl, s.offsetTarget_toNat nnn⟩⟩

/-! ## The data that a transfer leaves alone (R104) -/

/-- Settles O29: a fault changes the mode alone, `00EE` and `2nnn` pc and the stack, `Ex9E` and `ExA1` pc and the key
queries, and the others pc. -/
theorem controlTransfersLeaveDataAlone : Obligations.ControlTransfersLeaveDataAlone := by
  intro i s t x y nn nnn hi h
  cases hf : executeFault i s with
  | some f =>
    obtain rfl := Host.Outcome.next.inj ((exec_of_fault hf).symm.trans h)
    exact ⟨rfl, fun hrun => absurd rfl (hrun f)⟩
  | none =>
    cases i
    case ret =>
      obtain ⟨rest, a, hst⟩ := stack_eq_append (not_of_guard_eq_none hf)
      obtain rfl := Host.Outcome.next.inj ((exec_ret_append hst).symm.trans h)
      exact ⟨rfl, fun _ => rfl⟩
    case call nnn =>
      have room : s.stack.length < 16 := Nat.not_le.mp (not_of_guard_eq_none hf)
      obtain rfl := Host.Outcome.next.inj ((execCall_room nnn room).symm.trans h)
      exact ⟨rfl, fun _ => rfl⟩
    case jp | jpV0Nnn | seVxNn | sneVxNn | seVxVy | sneVxVy | skpVx | sknpVx =>
      obtain rfl := Host.Outcome.next.inj h
      exact ⟨rfl, fun _ => rfl⟩
    all_goals simp at hi

end Sys2Proof.Machine
end

section
/-! SUPPORT. The statements of the skips family: a skip writes pc alone, and compares two bytes for equality. -/

namespace Sys2Proof.Machine

/-! ## What a skip writes (R110 to R113) -/

/-- A skip that is taken passes over the next word. -/
theorem State.skipIf_taken (s : State) {c : Bool} (h : c = true) : s.skipIf c = { s with pc := s.pc + 4 } := by
  rw [h]
  rfl

/-- A skip that is not taken goes on to the next word. -/
theorem State.skipIf_not_taken (s : State) {c : Bool} (h : c = false) : s.skipIf c = { s with pc := s.pc + 2 } := by
  rw [h]
  rfl

/-- The skips on equality and on inequality of two bytes, in both outcomes: the second byte is an immediate (R110, R111)
or a register (R112, R113). -/
theorem next_skipIf_comparison (s : State) (a b : Byte) :
    (a = b → (Host.Outcome.next (s.skipIf (a == b)) : Answer) = .next { s with pc := s.pc + 4 }) ∧
    (a ≠ b → (Host.Outcome.next (s.skipIf (a == b)) : Answer) = .next { s with pc := s.pc + 2 }) ∧
    (a ≠ b → (Host.Outcome.next (s.skipIf (a != b)) : Answer) = .next { s with pc := s.pc + 4 }) ∧
    (a = b → (Host.Outcome.next (s.skipIf (a != b)) : Answer) = .next { s with pc := s.pc + 2 }) :=
  ⟨fun heq => congrArg _ (s.skipIf_taken (beq_iff_eq.mpr heq)),
    fun hne => congrArg _ (s.skipIf_not_taken (beq_eq_false_iff_ne.mpr hne)),
    fun hne => congrArg _ (s.skipIf_taken (bne_iff_ne.mpr hne)),
    fun heq => congrArg _ (s.skipIf_not_taken (bne_eq_false_iff_eq.mpr heq))⟩

/-- Settles O39: the words are the encodings of the two skips, which compare Vx with the immediate. -/
theorem skipsOnImmediate : Obligations.SkipsOnImmediate :=
  ⟨fun x nn => ⟨decodeWord_encode (i := .seVxNn x nn) rfl, decodeWord_encode (i := .sneVxNn x nn) rfl⟩,
    fun x nn s => next_skipIf_comparison s (s.readV x) nn⟩

/-- Settles O40: the words are the encodings of the two skips, which compare Vx with Vy. -/
theorem skipsOnRegisters : Obligations.SkipsOnRegisters :=
  ⟨fun x y => ⟨decodeWord_encode (i := .seVxVy x y) rfl, decodeWord_encode (i := .sneVxVy x y) rfl⟩,
    fun x y s => next_skipIf_comparison s (s.readV x) (s.readV y)⟩

end Sys2Proof.Machine
end

section
/-! SUPPORT. The statements of the immediate family: an instruction that writes one register and advances pc, whatever
byte it writes. -/

namespace Sys2Proof.Machine

/-! ## One register written, pc past the word (R120 to R122) -/

/-- Writing a register and advancing writes `v` and pc alone. -/
theorem State.writeV_advance_frame (s : State) (x : Reg) (b : Byte) :
    (s.writeV x b).advance = { s with v := (s.writeV x b).advance.v, pc := s.pc + 2 } := rfl

/-- Every register but the one written keeps its byte, VF included. -/
theorem State.readV_writeV_advance_ne (s : State) {x r : Reg} (b : Byte) (h : r ≠ x) :
    (s.writeV x b).advance.readV r = s.readV r := by
  rw [State.readV_advance, State.readV_writeV, if_neg h]

/-- An instruction that answers with one register written and pc advanced writes its byte there and nothing else. -/
theorem exists_next_writeV_advance {s : State} {i : Instr} {x : Reg} {b : Byte}
    (h : exec i s = .next (s.writeV x b).advance) :
    ∃ t, exec i s = .next t ∧ t = { s with v := t.v, pc := s.pc + 2 } ∧ t.readV x = b ∧
      ∀ r, r ≠ x → t.readV r = s.readV r :=
  ⟨_, h, s.writeV_advance_frame x b, s.readV_writeV_same x b, fun _ => s.readV_writeV_advance_ne b⟩

/-- Settles O41: each instruction writes Vx alone, the load `nn` itself and the addition the sum cut to a byte. -/
theorem immediateLoadAndAdd : Obligations.ImmediateLoadAndAdd := by
  refine ⟨fun x nn => ⟨decodeWord_encode (i := .ldVxNn x nn) rfl, decodeWord_encode (i := .addVxNn x nn) rfl⟩,
    fun _ _ _ => exists_next_writeV_advance rfl, fun x nn s => ?_⟩
  obtain ⟨t, hexec, hframe, hx, hother⟩ := exists_next_writeV_advance (i := .addVxNn x nn) (s := s) rfl
  have hsum : (t.readV x).toNat = ((s.readV x).toNat + nn.toNat) % 256 := by rw [hx, BitVec.toNat_ofNat]
  exact ⟨t, hexec, hframe, hsum, hother⟩

/-- Settles O42: the byte written is the AND with `nn`, bit by bit, and an AND is at most its right operand. -/
theorem randomByteIsMasked : Obligations.RandomByteIsMasked := by
  refine ⟨fun x nn => decodeWord_encode (i := .rndVxNn x nn) rfl, fun x nn s => ?_⟩
  obtain ⟨t, hexec, hframe, hx, hother⟩ := exists_next_writeV_advance (i := .rndVxNn x nn) (s := s) rfl
  have hbits : ∀ k < 8, (t.readV x).getLsbD k = (s.env.rnd.getLsbD k && nn.getLsbD k) := by
    intro k _
    rw [hx, BitVec.getLsbD_and]
  have hle : (t.readV x).toNat ≤ nn.toNat := by
    rw [hx, BitVec.toNat_and]
    exact Nat.and_le_right
  exact ⟨t, hexec, hframe, hbits, hle, hother⟩

end Sys2Proof.Machine
end

section
/-! SUPPORT. The statements of the ALU family: an instruction that writes its result alone, and one that writes its
result and then a flag, with the numbers that the flags and the results are. -/

namespace Sys2Proof.Machine

/-! ## A result and no flag (R130 to R133) -/

/-- An instruction that answers with one register written and pc advanced writes the bits of its byte there and nothing
else. -/
theorem exists_next_writeV_advance_bits {s : State} {i : Instr} {x : Reg} {b : Byte} {bit : Nat → Bool}
    (h : exec i s = .next (s.writeV x b).advance) (hbit : ∀ k, b.getLsbD k = bit k) :
    ∃ t, exec i s = .next t ∧ t = { s with v := t.v, pc := s.pc + 2 } ∧
      (∀ k < 8, (t.readV x).getLsbD k = bit k) ∧ ∀ r, r ≠ x → t.readV r = s.readV r := by
  obtain ⟨t, hexec, hframe, hx, hother⟩ := exists_next_writeV_advance h
  exact ⟨t, hexec, hframe, fun k _ => by rw [hx, hbit], hother⟩

/-- Settles O43: each instruction writes Vx alone, with Vy or with the two bytes combined bit by bit. -/
theorem copyAndLogic : Obligations.CopyAndLogic :=
  ⟨fun x y => ⟨decodeWord_encode (i := .ldVxVy x y) rfl, decodeWord_encode (i := .orVxVy x y) rfl,
      decodeWord_encode (i := .andVxVy x y) rfl, decodeWord_encode (i := .xorVxVy x y) rfl⟩,
    fun _ _ _ => ⟨exists_next_writeV_advance rfl,
      exists_next_writeV_advance_bits rfl fun _ => BitVec.getLsbD_or,
      exists_next_writeV_advance_bits rfl fun _ => BitVec.getLsbD_and,
      exists_next_writeV_advance_bits rfl fun _ => BitVec.getLsbD_xor⟩⟩

/-! ## A result and then a flag (R139) -/

/-- Writing a result and a flag and advancing writes `v` and pc alone. -/
theorem State.writeResultFlag_advance_frame (s : State) (x : Reg) (b : Byte) (c : Bool) :
    (s.writeResultFlag x b c).advance = { s with v := (s.writeResultFlag x b c).advance.v, pc := s.pc + 2 } := rfl

/-- An instruction that answers with a result and a flag written and pc advanced leaves the flag in VF, the result in
any other destination, and everything else. -/
theorem exists_next_writeResultFlag_advance {s : State} {i : Instr} {x : Reg} {b : Byte} {c : Bool} {flag result : Nat}
    (h : exec i s = .next (s.writeResultFlag x b c).advance) (hflag : (flagByte c).toNat = flag)
    (hresult : b.toNat = result) :
    ∃ t, exec i s = .next t ∧ t = { s with v := t.v, pc := s.pc + 2 } ∧ (t.readV regVF).toNat = flag ∧
      (x ≠ regVF → (t.readV x).toNat = result) ∧ ∀ r, r ≠ x → r ≠ regVF → t.readV r = s.readV r := by
  refine ⟨_, h, s.writeResultFlag_advance_frame x b c, ?_, fun hx => ?_, fun r hr hvf => ?_⟩
  · rw [State.readV_advance, State.readV_writeResultFlag, if_pos rfl, hflag]
  · rw [State.readV_advance, State.readV_writeResultFlag, if_neg hx, if_pos rfl, hresult]
  · rw [State.readV_advance, State.readV_writeResultFlag, if_neg hvf, if_neg hr]

/-! ## The flags and the results as numbers -/

theorem flagByte_toNat (c : Bool) : (flagByte c).toNat = c.toNat := by cases c <;> rfl

/-- A flag that tells whether a condition holds (R22). -/
theorem flagByte_decide_toNat (p : Prop) [Decidable p] : (flagByte (decide p)).toNat = if p then 1 else 0 := by
  by_cases hp : p <;> simp [hp]

/-- A byte taken from a byte, modulo 256 (R135, R137). -/
theorem toNat_sub_byte (a b : Byte) : (a - b).toNat = (a.toNat + 256 - b.toNat) % 256 := by
  bv_omega

/-- Bit 0 of a byte is its parity (R136). -/
theorem flagByte_bitOutRight (a : Byte) : (flagByte (bitOutRight a)).toNat = a.toNat % 2 := by
  rw [flagByte_toNat, bitOutRight, BitVec.getLsbD, Nat.toNat_testBit, pow_zero, Nat.div_one]

/-- Bit 7 of a byte is the highest it has, so no remainder is left to take (R138). -/
theorem flagByte_bitOutLeft (a : Byte) : (flagByte (bitOutLeft a)).toNat = a.toNat / 128 := by
  have htop : a.toNat / 128 < 2 := Nat.div_lt_of_lt_mul a.isLt
  rw [flagByte_toNat, bitOutLeft, BitVec.getLsbD, Nat.toNat_testBit]
  exact Nat.mod_eq_of_lt htop

/-- Shifted left by one, a byte is doubled modulo 256 (R138). -/
theorem toNat_shiftLeft_one (a : Byte) : (a <<< 1).toNat = a.toNat * 2 % 256 := by
  rw [BitVec.toNat_shiftLeft, Nat.shiftLeft_eq]

/-! ## Addition, subtraction and shifts (R134 to R138) -/

/-- Settles O44: the flag is `carryOut`, the result the sum cut to a byte. -/
theorem addLeavesTheCarry : Obligations.AddLeavesTheCarry :=
  ⟨fun x y => decodeWord_encode (i := .addVxVy x y) rfl,
    fun _ _ _ => exists_next_writeResultFlag_advance rfl (flagByte_decide_toNat _) (BitVec.toNat_ofNat _ _)⟩

/-- Settles O45: the flag is `noBorrow`, the result the difference of two bytes. -/
theorem subtractLeavesNoBorrow : Obligations.SubtractLeavesNoBorrow :=
  ⟨fun x y => ⟨decodeWord_encode (i := .subVxVy x y) rfl, decodeWord_encode (i := .subnVxVy x y) rfl⟩,
    fun _ _ _ => exists_next_writeResultFlag_advance rfl (flagByte_decide_toNat _) (toNat_sub_byte _ _),
    fun _ _ _ => exists_next_writeResultFlag_advance rfl (flagByte_decide_toNat _) (toNat_sub_byte _ _)⟩

/-- Settles O46: the flag is the bit shifted out of Vx, and neither shift reads its `y`. -/
theorem shiftsLeaveTheBitShiftedOut : Obligations.ShiftsLeaveTheBitShiftedOut := by
  refine ⟨fun x y => ⟨decodeWord_encode (i := .shrVx x y) rfl, decodeWord_encode (i := .shlVx x y) rfl⟩,
    fun x y s => ?_, fun x y s => ?_⟩
  · obtain ⟨t, hexec, hframe, hflag, hx, hother⟩ := exists_next_writeResultFlag_advance (i := .shrVx x y) (s := s) rfl
      (flagByte_bitOutRight _) (BitVec.toNat_ushiftRight _ _)
    exact ⟨t, hexec, hframe, hflag, hx, hother, fun _ => hexec⟩
  · obtain ⟨t, hexec, hframe, hflag, hx, hother⟩ := exists_next_writeResultFlag_advance (i := .shlVx x y) (s := s) rfl
      (flagByte_bitOutLeft _) (toNat_shiftLeft_one _)
    exact ⟨t, hexec, hframe, hflag, hx, hother, fun _ => hexec⟩

end Sys2Proof.Machine
end

section
/-! SUPPORT. The statements of the index and memory family: what is written to I, the blocks of bytes that are stored
and loaded at I, and that a load of a stored block gives the registers back. -/

namespace Sys2Proof.Machine

/-! ## The index register (R150 to R152) -/

/-- Settles O47: the word is a class with any 12 bits, and the load writes I and pc alone. -/
theorem loadIndex : Obligations.LoadIndex :=
  ⟨fun _ => decodeWord_append_nnn rfl rfl, fun _ _ => rfl⟩

/-- Settles O48: the flag `indexOverflow` is of the old I and the old Vx, and it is the one register written. -/
theorem addIndexFlagsTheOldSum : Obligations.AddIndexFlagsTheOldSum := by
  refine ⟨fun x => decodeWord_encode (i := .addIVx x) rfl,
    fun x s => ⟨_, rfl, rfl, BitVec.toNat_ofNat _ _, ?_, fun r hr => ?_⟩⟩
  · rw [State.readV_advance, State.readV_writeFlag, if_pos rfl]
    exact flagByte_decide_toNat _
  · rw [State.readV_advance, State.readV_writeFlag, if_neg hr, State.readV_writeI]

/-- Settles O49: I is the font address of Vx, which `fontAddress_toNat` gives for every byte. -/
theorem fontAddressIsFiveTimesVx : Obligations.FontAddressIsFiveTimesVx :=
  ⟨fun x => decodeWord_encode (i := .ldFVx x) rfl,
    fun _ _ => ⟨_, rfl, rfl, (fontAddress_toNat _).trans (Nat.mul_comm _ _)⟩⟩

/-! ## A block of bytes stored, pc past the word (R153, R154) -/

/-- `Fx33` inside the capacity stores the three digits and goes on (R153). -/
theorem execLdBVx_fits {x : Reg} {s : State} (h : s.base + 3 ≤ 4096) :
    exec (.ldBVx x) s = .next (s.store s.base (bcdDigits (s.readV x))).advance :=
  withAccess_fits fun hn => Nat.not_lt.mpr h hn.2

@[simp] theorem length_bcdDigits (b : Byte) : (bcdDigits b).length = 3 := by
  rw [bcdDigits, List.length_cons, List.length_cons, List.length_singleton]

/-- A number that fits in a byte is not cut. -/
theorem toNat_byte_of_lt {n : Nat} (h : n < 256) : (BitVec.ofNat 8 n).toNat = n := by
  rw [BitVec.toNat_ofNat, Nat.mod_eq_of_lt h]

/-- The decimal digits of a byte, as numbers (R153). -/
theorem bcdDigits_toNat (b : Byte) :
    (bcdDigits b)[0].toNat = b.toNat / 100 ∧ (bcdDigits b)[1].toNat = b.toNat / 10 % 10 ∧
      (bcdDigits b)[2].toNat = b.toNat % 10 := by
  have := b.isLt
  exact ⟨toNat_byte_of_lt (by omega), toNat_byte_of_lt (by omega), toNat_byte_of_lt (by omega)⟩

/-- Settles O50: the block stored is the three digits, whose numbers `bcdDigits_toNat` gives; past the end it is the
fault of `Fx33`. -/
theorem bcdStoresThreeDigits : Obligations.BcdStoresThreeDigits := by
  refine ⟨fun x => decodeWord_encode (i := .ldBVx x) rfl, fun x s hfits => ?_,
    fun x s hout => exec_of_fault (i := .ldBVx x) (if_pos (Nat.lt_succ_of_le hout))⟩
  obtain ⟨hhundreds, htens, hones⟩ := bcdDigits_toNat (s.readV x)
  rw [← s.byteAt_store_inside s.base] at hhundreds htens hones
  exact ⟨_, execLdBVx_fits hfits, rfl, hhundreds, htens, hones, fun _ ha => s.byteAt_store_outside s.base _ ha⟩

/-- Settles O51: the block stored is V0 to Vx, byte `k` being `V[k]` by `State.byteAt_store_regsUpTo`; past the end it
is the fault of `Fx55`. -/
theorem storeRegistersUpToVx : Obligations.StoreRegistersUpToVx := by
  refine ⟨fun x => decodeWord_encode (i := .ldMemVx x) rfl,
    fun x s hfits => ⟨_, execLdMemVx_fits hfits, rfl, fun k hk => s.byteAt_store_regsUpTo s.base hk, fun a ha => ?_⟩,
    fun x s hout => exec_of_fault (i := .ldMemVx x) (if_pos hout)⟩
  have houtside : a < s.base ∨ s.base + (s.regsUpTo x).length ≤ a := by rwa [State.length_regsUpTo]
  exact s.byteAt_store_outside s.base _ houtside

/-! ## A block of bytes loaded (R155) -/

/-- `Fx65` inside the capacity loads the registers and goes on (R155). -/
theorem execLdVxMem_fits {x : Reg} {s : State} (h : s.base + regCount x ≤ 4096) :
    exec (.ldVxMem x) s = .next (s.loadRegs x s.base).advance :=
  withAccess_fits fun hn => Nat.not_lt.mpr h hn.2

/-- Loading registers and advancing writes `v` and pc alone. -/
theorem State.loadRegs_advance_frame (s : State) (x : Reg) (base : Nat) :
    (s.loadRegs x base).advance = { s with v := (s.loadRegs x base).advance.v, pc := s.pc + 2 } := by
  rw [State.loadRegs]
  rfl

/-- Settles O52: each register by `State.readV_loadRegs`; past the end it is the fault of `Fx65`. -/
theorem loadRegistersUpToVx : Obligations.LoadRegistersUpToVx := by
  refine ⟨fun x => decodeWord_encode (i := .ldVxMem x) rfl,
    fun x s hfits => ⟨_, execLdVxMem_fits hfits, s.loadRegs_advance_frame x s.base, fun k hk => ?_, fun r hr => ?_⟩,
    fun x s hout => exec_of_fault (i := .ldVxMem x) (if_pos hout)⟩
  · rw [State.readV_advance, State.readV_loadRegs]
    exact if_pos hk
  · rw [State.readV_advance, State.readV_loadRegs]
    exact if_neg (Nat.not_le.mpr hr)

/-! ## Store and load (R154, R155) -/

/-- Settles O53: `storeRegistersUpToVx` puts each register at I and up, `loadRegistersUpToVx` reads it there, and the
registers changed in between reach neither memory nor I. -/
theorem storeThenLoadRoundTrip : Obligations.StoreThenLoadRoundTrip := by
  intro x s t v' hfits hexec
  obtain ⟨-, hstore, -⟩ := storeRegistersUpToVx
  obtain ⟨-, hload, -⟩ := loadRegistersUpToVx
  obtain ⟨t', hexec', hframe, hstored, -⟩ := hstore x s hfits
  obtain rfl : t' = t := Host.Outcome.next.inj (hexec'.symm.trans hexec)
  have hti : t'.i = s.i := by rw [hframe]
  obtain ⟨u, hu, huframe, hloaded, -⟩ := hload x { t' with v := v' } (by rw [hti]; exact hfits)
  have hui : u.i = t'.i := by rw [huframe]
  refine ⟨u, hu, hui.trans hti, hti, fun k hk => ?_⟩
  calc u.readV k = t'.byteAt (t'.i.toNat + k.val) := hloaded k hk
    _ = t'.byteAt (s.i.toNat + k.val) := by rw [hti]
    _ = s.readV k := hstored k hk

end Sys2Proof.Machine
end

section
/-! SUPPORT. The statements of the display family: the words of format `XYN` with any 4 bits, the one command each
instruction emits, and the sprite of a draw, byte by byte. -/

namespace Sys2Proof

/-! ## The words of a draw (R83, R86) -/

/-- The 4 bits of a sprite height, read as a number and encoded again, stand in the word as they are. -/
theorem encode_drwVxVyN_toNat (x y : Reg) (n : BitVec 4) :
    encode (.drwVxVyN x y n.toNat) = 0xD#4 ++ (regField x ++ (regField y ++ n)) := by
  rw [encode, encodeXYN, BitVec.ofNat_toNat, BitVec.setWidth_eq]

end Sys2Proof

namespace Sys2Proof.Machine

/-! ## The clear (R160) -/

/-- Settles O54: `00E0` emits its command and advances, by its meaning. -/
theorem clearEmitsOneCommand : Obligations.ClearEmitsOneCommand :=
  ⟨decodeWord_encode (i := .cls) rfl, fun _ => rfl⟩

/-! ## The draw (R161, R223) -/

/-- `Dxyn` with no bytes to read, or with all of them inside the capacity, emits its command, writes the display's
answer to VF and goes on (R161). -/
theorem execDrwVxVyN_fits (x y : Reg) {n : Nat} {s : State} (h : n = 0 ∨ s.base + n ≤ 4096) :
    exec (.drwVxVyN x y n) s = .next
      ((s.emit (.draw (s.readV x) (s.readV y) (s.bytesAt s.base n))).writeFlag s.env.collided).advance :=
  withAccess_fits (by omega)

/-- Emitting a command, writing a flag and advancing writes the Display commands, `v` and pc alone. -/
theorem State.emit_writeFlag_advance_frame (s : State) (d : DisplayCommand) (c : Bool) :
    ((s.emit d).writeFlag c).advance =
      { s with v := ((s.emit d).writeFlag c).advance.v, pc := s.pc + 2, display := s.display ++ [d] } := rfl

/-- Byte `k` of a block is the byte at its own address (R161). -/
theorem State.getElem?_bytesAt (s : State) (base : Nat) {n k : Nat} (h : k < n) :
    (s.bytesAt base n)[k]? = some (s.byteAt (base + k)) := by
  have hk : k < (s.bytesAt base n).length := by rwa [State.length_bytesAt]
  rw [List.getElem?_eq_getElem hk, State.getElem_bytesAt]

/-- Settles O55: the sprite is the block of `n` bytes at I, and VF is the one register written; past the end it is the
fault of `Dxyn`. -/
theorem drawEmitsTheSprite : Obligations.DrawEmitsTheSprite := by
  refine ⟨fun x y n => ?_,
    fun x y n s hfits => ⟨_, s.bytesAt s.base n, execDrwVxVyN_fits x y hfits, s.emit_writeFlag_advance_frame _ _,
      s.length_bytesAt s.base n, fun k hk => s.getElem?_bytesAt s.base hk, ?_, fun r hr => ?_⟩,
    fun x y n s hpos hout => exec_of_fault (i := .drwVxVyN x y n) (if_pos ⟨hpos, hout⟩)⟩
  · rw [← encode_drwVxVyN_toNat]
    exact decodeWord_encode (decide_eq_true n.isLt)
  · rw [State.readV_advance, State.readV_writeFlag, if_pos rfl]
    rfl
  · rw [State.readV_advance, State.readV_writeFlag, if_neg hr, State.readV_emit]

end Sys2Proof.Machine
end

section
/-! SUPPORT. The statements of the keypad family: the two skips on the keypad's answer, the wait that `Fx0A` enters, and
the `KeyEvent` that ends it. -/

namespace Sys2Proof.Machine

/-! ## The skips on the keypad's answer (R170, R171) -/

/-- Presenting a key and skipping writes the presented keys and pc alone. -/
theorem State.presentKey_skipIf_frame (s : State) (k : Byte) (c : Bool) :
    (s.presentKey k).skipIf c =
      { s with keyQueries := s.keyQueries ++ [k], pc := if c then s.pc + 4 else s.pc + 2 } := rfl

/-- Settles O56: each skip presents Vx, and takes the answer, or its negation, for its condition. -/
theorem keySkipsFollowTheKeypad : Obligations.KeySkipsFollowTheKeypad := by
  refine ⟨fun x => ⟨decodeWord_encode (i := .skpVx x) rfl, decodeWord_encode (i := .sknpVx x) rfl⟩,
    fun x s down hdown => ?_⟩
  obtain rfl : s.env.isDown (s.readV x) = down := hdown
  have hskp : exec (.skpVx x) s = .next ((s.presentKey (s.readV x)).skipIf (s.env.isDown (s.readV x))) := rfl
  have hsknp : exec (.sknpVx x) s = .next ((s.presentKey (s.readV x)).skipIf (!s.env.isDown (s.readV x))) := rfl
  refine ⟨by rw [hskp, State.presentKey_skipIf_frame], ?_⟩
  rw [hsknp, State.presentKey_skipIf_frame]
  cases s.env.isDown (s.readV x) <;> rfl

/-! ## The wait (R172, R38) -/

/-- A `Step` in a wait changes nothing but the result, so nothing where the latest result is `Waiting` already (R38). -/
theorem perform_step_waiting (e : Env) {s : State} {x : Reg} (hm : s.mode = .waitingForKey x)
    (hr : s.result = .waiting) : perform (.step e) s = .next s := by
  have hres : stepResult s.mode = s.result := by rw [hm, hr]; rfl
  rw [perform, opStep_other e (by simp [hm]), hres]
  rfl

/-- Settles O57: the `Step` at an `Fx0A` by `opStep_of_waitForKey`, a further one by `perform_step_waiting`. -/
theorem waitForKeyChangesOnlyTheMode : Obligations.WaitForKeyChangesOnlyTheMode :=
  ⟨fun x => decodeWord_encode (i := .ldVxK x) rfl, fun _ _ => rfl, fun _ s e e' hm hf hd =>
    ⟨_, opStep_of_waitForKey e hm ((fetch_ok_iff s).mp hf) hd, rfl, perform_step_waiting e' rfl rfl⟩⟩

/-! ## The end of the wait (R173) -/

/-- A `KeyEvent` in a wait writes the key, passes over the `Fx0A` and resumes. -/
theorem perform_keyEvent_waiting (k : Key) {s : State} {xw : Reg} (hm : s.mode = .waitingForKey xw) :
    perform (.keyEvent k) s =
      .next (((s.writeV xw (BitVec.ofNat 8 k.val)).advance.setMode .running).returns .ok) := by
  simp only [perform, opKeyEvent, hm]

/-- A `KeyEvent` in any other mode is dropped (R38). -/
theorem perform_keyEvent_other (k : Key) {s : State} (hn : ∀ xw, s.mode ≠ .waitingForKey xw) :
    perform (.keyEvent k) s = .next (s.returns .ok) := by
  obtain ⟨xw, hm, -⟩ | ⟨-, ht⟩ := opKeyEvent_cases k s
  · exact absurd hm (hn xw)
  · rw [perform, ht]

/-- Resuming from a wait writes `v`, pc, the mode and the result alone. -/
theorem State.resume_frame (s : State) (x : Reg) (b : Byte) :
    ((s.writeV x b).advance.setMode .running).returns .ok =
      { s with v := (s.writeV x b).v, pc := s.pc + 2, mode := .running, result := .ok } := rfl

/-- Settles O25: in the wait the key is written to the waiting register alone; elsewhere `perform_keyEvent_other`. -/
theorem keyEventEndsTheWait : Obligations.KeyEventEndsTheWait := by
  refine fun s k => ⟨fun xw hm => ⟨_, perform_keyEvent_waiting k hm, s.resume_frame xw _, ?_, fun r hr => ?_⟩,
    perform_keyEvent_other k⟩
  · have hkey : k.val < 256 := k.isLt.trans (by decide)
    rw [State.readV_returns, State.readV_setMode, State.readV_advance, State.readV_writeV_same, toNat_byte_of_lt hkey]
  · rw [State.readV_returns, State.readV_setMode, State.readV_writeV_advance_ne _ _ hr]

end Sys2Proof.Machine
end

section
/-! SUPPORT. The statements about a `Step` in each mode, its faults, and the operations on an engine that is halted or
waits. -/

namespace Sys2Proof.Machine

/-! ## Every operation answers a next state (log 7, log 8) -/

/-- A running engine answers a next state, whether it has a fault or not. -/
theorem stepRunning_answers_next (s : State) : ∃ t, stepRunning s = .next t := by
  obtain ⟨f, -, h⟩ | ⟨-, i, t, -, -, -, -, h, -⟩ := stepRunning_cases s
  · exact ⟨_, h⟩
  · exact ⟨t, h⟩

theorem opStep_answers_next (e : Env) (s : State) : ∃ t, opStep e s = .next t := by
  by_cases hm : s.mode = .running
  · obtain ⟨t, ht⟩ := stepRunning_answers_next (s.withEnv e)
    exact ⟨_, by rw [opStep_running e hm, ht, answerStep_next]⟩
  · exact ⟨_, opStep_other e hm⟩

theorem perform_answers_next (op : Operation) (s : State) : ∃ t, perform op s = .next t := by
  cases op with
  | step e => exact opStep_answers_next e s
  | reset | load | initializeAt | tick | keyEvent => exact ⟨_, rfl⟩

/-- Settles O11: a step performs one operation, and each of the six answers a next state. -/
theorem stepNeverStops : Obligations.StepNeverStops := by
  intro s
  obtain ⟨op, rest, n, hop⟩ := step_cases s
  rw [hop]
  exact perform_answers_next op _

/-! ## The faults of a `Step` (R207, R208, R209) -/

/-- A `Step` in `Running` without a fault does not end halted: only a fault halts (R209, R40). -/
theorem opStep_not_halted {e : Env} {s t : State} (hm : s.mode = .running) (hf : stepFault s = none)
    (h : opStep e s = .next t) (f : Fault) : t.mode ≠ .halted f := by
  intro ht
  obtain ⟨x, -, -, -, hwait⟩ | ⟨g, -, hg, -⟩ := opStep_changes_mode h (by simp [hm, ht])
  · cases hwait.symm.trans ht
  · cases hf.symm.trans hg

/-- Settles O10: `opStep_of_stepFault` where there is a fault, `opStep_not_halted` where there is none. -/
theorem faultsArePreciseAndPrioritised : Obligations.FaultsArePreciseAndPrioritised := by
  refine fun s e hm => ⟨fun f hf => opStep_of_stepFault e hm hf, fun hf => ?_⟩
  obtain ⟨t, ht⟩ := opStep_answers_next e s
  exact ⟨t, ht, opStep_not_halted hm hf ht⟩

/-- An illegal word that can be fetched is the fault of its `Step` (R202, R208). -/
theorem stepFault_of_illegal {s : State} (hp : s.pc.toNat ≤ 4094) (hd : decodeWord s.wordAtPc = none) :
    stepFault s = some (.illegalInstruction s.wordAtPc s.pc) := by
  rw [stepFault, if_neg (by omega), hd]

/-- Settles O8: the fault by `stepFault_of_illegal`, its effect by `opStep_of_stepFault`. -/
theorem illegalInstructionHalts : Obligations.IllegalInstructionHalts := by
  rintro s e _ hm hp rfl hd
  exact opStep_of_stepFault e hm (stepFault_of_illegal hp hd)

/-! ## Outside `Running` (R38) -/

/-- A `Step` outside `Running` records the result that tells the mode, and nothing else (R38). -/
theorem perform_step_other (e : Env) {s : State} {m : Mode} (hm : s.mode = m) (hne : m ≠ .running) :
    perform (.step e) s = .next (s.returns (stepResult m)) := by
  subst hm
  exact opStep_other e hne

/-- Settles O9: `perform_step_other` in each of the three other modes. -/
theorem stepOutsideRunningChangesNothing : Obligations.StepOutsideRunningChangesNothing := by
  refine fun s e => ⟨fun hm => ?_, fun x hm => ?_, fun f hm => ?_⟩
  all_goals exact perform_step_other e hm (by simp)

theorem perform_load_refused (image : List Byte) (base : Nat) {s : State} (h : s.mode ≠ .uninitialized) :
    perform (.load image base) s = .next (s.returns .invalidState) := by
  obtain ⟨hm, -⟩ | ⟨hm, -⟩ | ⟨-, ht⟩ := opLoad_cases image base s
  · exact absurd hm h
  · exact absurd hm h
  · rw [perform, ht]

theorem perform_initializeAt_refused (a : Word) {s : State} (h : s.mode ≠ .uninitialized) :
    perform (.initializeAt a) s = .next (s.returns .invalidState) := by
  obtain ⟨hm, -⟩ | ⟨-, ht⟩ := opInitialize_cases a s
  · exact absurd hm h
  · rw [perform, ht]

/-- Once a session has begun and the engine does not run, an operation that is no `Reset`, and no `KeyEvent` in a wait,
changes at most the timers, the residue and the result (R38). -/
theorem perform_frame_of_not_running {op : Operation} {s : State} (hinit : s.mode ≠ .uninitialized)
    (hrun : s.mode ≠ .running) (hreset : op ≠ .reset)
    (hkey : ∀ k, op = .keyEvent k → ∀ xw, s.mode ≠ .waitingForKey xw) :
    ∃ t, perform op s = .next t ∧ t = { s with dt := t.dt, st := t.st, residue := t.residue, result := t.result } := by
  cases op with
  | reset => exact absurd rfl hreset
  | step e => exact ⟨_, perform_step_other e rfl hrun, rfl⟩
  | tick elapsed => exact ⟨_, rfl, rfl⟩
  | load image base => exact ⟨_, perform_load_refused image base hinit, rfl⟩
  | initializeAt a => exact ⟨_, perform_initializeAt_refused a hinit, rfl⟩
  | keyEvent k => exact ⟨_, perform_keyEvent_other k (hkey k rfl), rfl⟩

/-- Settles O17: `perform_frame_of_not_running`, a `KeyEvent` among the operations since no wait is on. -/
theorem onlyResetLeavesHalted : Obligations.OnlyResetLeavesHalted := by
  intro op s f hm hreset
  exact perform_frame_of_not_running (by simp [hm]) (by simp [hm]) hreset (by simp [hm])

/-- Settles O18: `perform_frame_of_not_running`, with the `KeyEvent` left out. -/
theorem onlyAKeyEventWakesTheEngine : Obligations.OnlyAKeyEventWakesTheEngine := by
  intro op s xw hm hreset hkey
  exact perform_frame_of_not_running (by simp [hm]) (by simp [hm]) hreset fun k hk => absurd hk (hkey k)

end Sys2Proof.Machine
end

section
/-! SUPPORT. The statements about the host's `Load` and `Initialize`, and the boot order that they make up. -/

namespace Sys2Proof.Machine

/-! ## `Load` (R252) -/

theorem perform_load_fits {image : List Byte} {base : Nat} {s : State} (hm : s.mode = .uninitialized)
    (h : base + image.length ≤ 4096) : perform (.load image base) s = .next ((s.store base image).returns .ok) := by
  obtain ⟨-, -, ht⟩ | ⟨-, hlong, -⟩ | ⟨hne, -⟩ := opLoad_cases image base s
  · rw [perform, ht]
  · exact absurd h hlong.not_ge
  · exact absurd hm hne

theorem perform_load_too_long {image : List Byte} {base : Nat} {s : State} (hm : s.mode = .uninitialized)
    (h : base + image.length > 4096) : perform (.load image base) s = .next (s.returns .loadError) := by
  obtain ⟨-, hfits, -⟩ | ⟨-, -, ht⟩ | ⟨hne, -⟩ := opLoad_cases image base s
  · exact absurd hfits h.not_ge
  · rw [perform, ht]
  · exact absurd hm hne

/-- Storing bytes and recording a result writes memory and the result alone. -/
theorem State.store_returns_frame (s : State) (base : Nat) (bs : List Byte) (r : Result) :
    (s.store base bs).returns r = { s with mem := ((s.store base bs).returns r).mem, result := r } := rfl

/-- Settles O20: the three cases of `Load`, and the reading rules of a store for an image that fits. -/
theorem loadCopiesTheImageOrRefuses : Obligations.LoadCopiesTheImageOrRefuses := by
  refine fun s image base => ⟨fun hm hfits => ?_, perform_load_too_long, perform_load_refused image base⟩
  exact ⟨_, perform_load_fits hm hfits, s.store_returns_frame base image .ok,
    fun k hk => s.byteAt_store_inside base image k hk, fun a ha => s.byteAt_store_outside base image ha⟩

/-! ## `Initialize` and the boot order (R253, R254) -/

theorem perform_initializeAt_uninitialized (a : Word) {s : State} (hm : s.mode = .uninitialized) :
    perform (.initializeAt a) s = .next
      { s with pc := a, i := 0, stack := [], dt := 0, st := 0, residue := 0, mode := .running, result := .ok } := by
  obtain ⟨-, ht⟩ | ⟨hne, -⟩ := opInitialize_cases a s
  · rw [perform, ht]
  · exact absurd hm hne

/-- Settles O21: the two cases of `Initialize`. -/
theorem initializeStartsASession : Obligations.InitializeStartsASession :=
  fun _ a => ⟨perform_initializeAt_uninitialized a, perform_initializeAt_refused a⟩

/-- Settles O22: the schedule gives `Load`, which copies the image, and then `Initialize`, which leaves memory alone. -/
theorem bootOrderStartsTheImage : Obligations.BootOrderStartsTheImage := by
  intro p image rest hlen
  have hfits : 0x200 + image.length ≤ 4096 := by omega
  refine ⟨_, _, (step_of_pending_cons rfl).trans (perform_load_fits rfl hfits),
    (step_of_pending_cons rfl).trans (perform_initializeAt_uninitialized 0x200 rfl),
    rfl, rfl, rfl, rfl, rfl, rfl, rfl, fun k hk => ?_⟩
  exact (State.resetWith p).byteAt_store_inside 0x200 image k hk

end Sys2Proof.Machine
end

section
/-! SUPPORT. The statements of the timer family: a `Tick` as numbers and as a sum of `Tick`s, the instructions that read
and set a timer, and the sound signal. -/

namespace Sys2Proof.Machine

/-! ## A `Tick`, field by field (R216, R217) -/

/-- The whole 60 Hz periods that a `Tick` takes from each timer (R216). -/
def State.periods (s : State) (elapsed : Nat) : Nat :=
  timeDebt s.residue elapsed / s.params.timeUnitsPerSecond.val

theorem State.periods_eq (s : State) (elapsed : Nat) :
    s.periods elapsed = (s.residue + 60 * elapsed) / s.params.timeUnitsPerSecond.val := rfl

theorem opTick_dt (elapsed : Nat) (s : State) : (opTick elapsed s).dt = agedTimer s.dt (s.periods elapsed) := rfl

theorem opTick_st (elapsed : Nat) (s : State) : (opTick elapsed s).st = agedTimer s.st (s.periods elapsed) := rfl

theorem opTick_residue (elapsed : Nat) (s : State) :
    (opTick elapsed s).residue = (s.residue + 60 * elapsed) % s.params.timeUnitsPerSecond.val := rfl

@[simp] theorem opTick_params (elapsed : Nat) (s : State) : (opTick elapsed s).params = s.params := rfl

/-- A `Tick` writes the timers, the residue and the result alone (R216). -/
theorem opTick_frame (elapsed : Nat) (s : State) :
    opTick elapsed s =
      { s with
        dt := (opTick elapsed s).dt
        st := (opTick elapsed s).st
        residue := (opTick elapsed s).residue
        result := .ok } := rfl

/-- Settles O23: `opTick` field by field, the decrements as numbers by `agedTimer_toNat`. -/
theorem tickAgesBothTimers : Obligations.TickAgesBothTimers := by
  refine fun s elapsed => ⟨_, rfl, opTick_frame elapsed s, ?_, ?_, opTick_residue elapsed s⟩
  · rw [opTick_dt, agedTimer_toNat, State.periods_eq, tsub_min]
  · rw [opTick_st, agedTimer_toNat, State.periods_eq, tsub_min]

/-! ## When a timer changes, and when it runs out -/

/-- A timer stays as it is exactly where it is 0 already or no period has elapsed (R217). -/
theorem agedTimer_eq_self_iff (t : Byte) (n : Nat) : agedTimer t n = t ↔ t = 0 ∨ n = 0 := by
  rw [← BitVec.toNat_inj, ← BitVec.toNat_inj, agedTimer_toNat, BitVec.ofNat_eq_ofNat, BitVec.toNat_zero]
  omega

/-- A timer outlasts the periods exactly where they are fewer than its value (R217). -/
theorem agedTimer_ne_zero_iff (t : Byte) (n : Nat) : agedTimer t n ≠ 0 ↔ n < t.toNat := by
  rw [Ne, ← BitVec.toNat_inj, agedTimer_toNat, BitVec.ofNat_eq_ofNat, BitVec.toNat_zero]
  omega

theorem State.periods_eq_zero_iff (s : State) (elapsed : Nat) :
    s.periods elapsed = 0 ↔ s.residue + 60 * elapsed < s.params.timeUnitsPerSecond.val :=
  Nat.div_eq_zero_iff_lt s.params.timeUnitsPerSecond.property

/-! ## `Tick`s add up (R218) -/

/-- The debt of a second `Tick` on top of the first one's is the debt of one with the sum. -/
theorem debt_add (r a b : Nat) : r + 60 * a + 60 * b = r + 60 * (a + b) := by omega

/-- The periods of two `Tick`s are those of one with the sum, the first one's remainder being carried. -/
theorem State.periods_add (s : State) (a b : Nat) :
    s.periods a + (opTick a s).periods b = s.periods (a + b) := by
  rw [State.periods_eq, State.periods_eq, State.periods_eq, opTick_residue, opTick_params, periods_split, debt_add]

theorem opTick_opTick (a b : Nat) (s : State) : opTick b (opTick a s) = opTick (a + b) s := by
  have hdt : (opTick b (opTick a s)).dt = (opTick (a + b) s).dt := by
    rw [opTick_dt, opTick_dt, agedTimer_agedTimer, State.periods_add, opTick_dt]
  have hst : (opTick b (opTick a s)).st = (opTick (a + b) s).st := by
    rw [opTick_st, opTick_st, agedTimer_agedTimer, State.periods_add, opTick_st]
  have hres : (opTick b (opTick a s)).residue = (opTick (a + b) s).residue := by
    rw [opTick_residue, opTick_residue, opTick_params, Nat.mod_add_mod, debt_add, opTick_residue]
  rw [opTick_frame b, hdt, hst, hres]
  rfl

/-- What a `Tick` makes of the timers and the residue rests on them and the parameters alone (R216). -/
theorem opTick_timers_congr {s t : State} (hdt : t.dt = s.dt) (hst : t.st = s.st) (hres : t.residue = s.residue)
    (hp : t.params = s.params) (elapsed : Nat) :
    (opTick elapsed t).dt = (opTick elapsed s).dt ∧ (opTick elapsed t).st = (opTick elapsed s).st ∧
      (opTick elapsed t).residue = (opTick elapsed s).residue := by
  simp only [opTick, hdt, hst, hres, hp, and_self]

/-- An instruction other than `Fx15` and `Fx18` leaves all that a `Tick` of the timers rests on (R26, R27). -/
theorem exec_keeps_timers {i : Instr} {s t : State} (hdelay : ∀ x, i ≠ .ldDtVx x) (hsound : ∀ x, i ≠ .ldStVx x)
    (h : exec i s = .next t) : t.dt = s.dt ∧ t.st = s.st ∧ t.residue = s.residue ∧ t.params = s.params := by
  obtain ⟨-, -, hdt, hst, -, -, -, -, hres, -, -, -, -, -, hp⟩ := elementsBesideVAndPcHaveTheirWriters i s t h
  refine ⟨by_contra fun hne => ?_, by_contra fun hne => ?_, hres, hp⟩
  · obtain ⟨x, hx⟩ := hdt hne
    exact hdelay x hx
  · obtain ⟨x, hx⟩ := hst hne
    exact hsound x hx

/-- A `Tick` of no time changes nothing, the residue being below one period as it is (R218). -/
theorem opTick_zero {s : State} (h : s.residue < s.params.timeUnitsPerSecond.val) :
    opTick 0 s = s.returns .ok := by
  have hperiods : s.periods 0 = 0 := (s.periods_eq_zero_iff 0).mpr h
  have aged (t : Byte) : agedTimer t (s.periods 0) = t := (agedTimer_eq_self_iff t _).mpr (.inr hperiods)
  have hres : (opTick 0 s).residue = s.residue := Nat.mod_eq_of_lt h
  rw [opTick_frame, opTick_dt, opTick_st, aged, aged, hres]
  rfl

/-- Settles O24: `opTick_opTick`; the instruction in between is seen by no timer, by `exec_keeps_timers`. -/
theorem tickIsAdditive : Obligations.TickIsAdditive := by
  refine ⟨fun s a b => opTick_opTick a b s, fun s t i a b hdelay hsound h => ?_, fun s h => opTick_zero h⟩
  obtain ⟨hdt, hst, hres, hp⟩ := exec_keeps_timers hdelay hsound h
  rw [← opTick_opTick]
  exact opTick_timers_congr hdt hst hres hp b

/-! ## Timer access and the sound signal (R180 to R182, R221) -/

theorem State.soundActive_iff (s : State) : s.soundActive = true ↔ s.st ≠ 0 := decide_eq_true_iff

/-- Settles O58: `Fx07` writes Vx alone, `Fx18` ST alone, and the signal is read off ST. -/
theorem readDelaySetSound : Obligations.ReadDelaySetSound :=
  ⟨fun x => ⟨decodeWord_encode (i := .ldVxDt x) rfl, decodeWord_encode (i := .ldStVx x) rfl⟩,
    fun _ _ => exists_next_writeV_advance rfl, fun _ _ => ⟨_, rfl, rfl, State.soundActive_iff _⟩⟩

/-- Settles O59: after `Fx15` the residue is the old one, so the value set, which is not 0, stays exactly where the debt
is below one period. -/
theorem setDelayKeepsTheDebt : Obligations.SetDelayKeepsTheDebt := by
  refine ⟨fun x => decodeWord_encode (i := .ldDtVx x) rfl, fun _ _ => rfl, fun x s t elapsed h hne => ?_⟩
  obtain rfl : (s.setDt (s.readV x)).advance = t := Host.Outcome.next.inj h
  rw [opTick_dt, Ne, agedTimer_eq_self_iff, State.periods_eq_zero_iff, State.advance_dt, State.setDt_dt,
    or_iff_right hne, Nat.not_lt]
  rfl

/-- Settles O60: `agedTimer_ne_zero_iff` on ST. -/
theorem soundEndsWithItsTimer : Obligations.SoundEndsWithItsTimer := by
  refine fun s elapsed => ⟨_, rfl, ?_⟩
  rw [State.soundActive_iff, opTick_st, agedTimer_ne_zero_iff, State.periods_eq]

end Sys2Proof.Machine
end
